-- ==== Sys2Proof/Word.lean ====
section
/-! DEFINITION. The two word sizes of the MCS6500 family: a byte on the data bus (20_memory.md R50) and a
16-bit address (10_state.md R24). Their arithmetic is that of `BitVec`, which wraps as 42_arithmetic.md R152 says. -/

namespace Sys2Proof

/-- The 8 bits of the data bus, of A, X, Y and S (20_memory.md R50, 10_state.md R20 to R23). -/
abbrev Byte := BitVec 8

/-- A 16-bit address, the width of PC on every member (10_state.md R24, 20_memory.md R51). -/
abbrev Word := BitVec 16

end Sys2Proof
end

