-- ==== Sys2Proof/Machine/Bits.lean ====
section
/-! DEFINITION. The byte-order and extension helpers of 00_scope.md R9 and R10. -/

namespace Sys2Proof.Machine

/-- `lo(w) = w[7:0]` (00_scope.md R9). -/
def loByte (w : Word) : Byte := w.extractLsb' 0 8

/-- `hi(w) = w[15:8]` (00_scope.md R9). -/
def hiByte (w : Word) : Byte := w.extractLsb' 8 8

/-- `hi ++ lo = 256 * hi + lo` (00_scope.md R9). -/
def joinBytes (hi lo : Byte) : Word := hi ++ lo

/-- `zext_16` (00_scope.md R10). -/
def zext16 (b : Byte) : Word := b.zeroExtend 16

/-- `sext_16` (00_scope.md R10). -/
def sext16 (b : Byte) : Word := b.signExtend 16

end Sys2Proof.Machine
end

