-- ==== Sys2Proof/Syntax.lean ====
section
/-! DEFINITION. The instructions of the family: one constructor for each of the 151 rows of spec/opcode_table.json
(30_encoding.md R83, R84), with its operand fields (R81, R82). The types admit exactly the values the fields can
hold, and every one of them is legal. A constructor's name is the mnemonic and, where the mnemonic has several modes,
the mode: Imm (R102), Zp (R103), ZpX (R104), ZpY (R105), Abs (R106), AbsX (R107), AbsY (R108), IndX (R110),
IndY (R111), Ind (R112), Acc (R101). -/

namespace Sys2Proof

inductive Instr where
  /-- LDA (zp,X), opcode $A1 (R120, R110). -/
  | ldaIndX (zp : Byte)
  /-- LDA zp, opcode $A5 (R120, R103). -/
  | ldaZp (zp : Byte)
  /-- LDA #imm, opcode $A9 (R120, R102). -/
  | ldaImm (imm : Byte)
  /-- LDA addr, opcode $AD (R120, R106). -/
  | ldaAbs (addr : Word)
  /-- LDA (zp),Y, opcode $B1 (R120, R111). -/
  | ldaIndY (zp : Byte)
  /-- LDA zp,X, opcode $B5 (R120, R104). -/
  | ldaZpX (zp : Byte)
  /-- LDA addr,Y, opcode $B9 (R120, R108). -/
  | ldaAbsY (addr : Word)
  /-- LDA addr,X, opcode $BD (R120, R107). -/
  | ldaAbsX (addr : Word)
  /-- LDX #imm, opcode $A2 (R121, R102). -/
  | ldxImm (imm : Byte)
  /-- LDX zp, opcode $A6 (R121, R103). -/
  | ldxZp (zp : Byte)
  /-- LDX addr, opcode $AE (R121, R106). -/
  | ldxAbs (addr : Word)
  /-- LDX zp,Y, opcode $B6 (R121, R105). -/
  | ldxZpY (zp : Byte)
  /-- LDX addr,Y, opcode $BE (R121, R108). -/
  | ldxAbsY (addr : Word)
  /-- LDY #imm, opcode $A0 (R122, R102). -/
  | ldyImm (imm : Byte)
  /-- LDY zp, opcode $A4 (R122, R103). -/
  | ldyZp (zp : Byte)
  /-- LDY addr, opcode $AC (R122, R106). -/
  | ldyAbs (addr : Word)
  /-- LDY zp,X, opcode $B4 (R122, R104). -/
  | ldyZpX (zp : Byte)
  /-- LDY addr,X, opcode $BC (R122, R107). -/
  | ldyAbsX (addr : Word)
  /-- STA (zp,X), opcode $81 (R123, R110). -/
  | staIndX (zp : Byte)
  /-- STA zp, opcode $85 (R123, R103). -/
  | staZp (zp : Byte)
  /-- STA addr, opcode $8D (R123, R106). -/
  | staAbs (addr : Word)
  /-- STA (zp),Y, opcode $91 (R123, R111). -/
  | staIndY (zp : Byte)
  /-- STA zp,X, opcode $95 (R123, R104). -/
  | staZpX (zp : Byte)
  /-- STA addr,Y, opcode $99 (R123, R108). -/
  | staAbsY (addr : Word)
  /-- STA addr,X, opcode $9D (R123, R107). -/
  | staAbsX (addr : Word)
  /-- STX zp, opcode $86 (R124, R103). -/
  | stxZp (zp : Byte)
  /-- STX addr, opcode $8E (R124, R106). -/
  | stxAbs (addr : Word)
  /-- STX zp,Y, opcode $96 (R124, R105). -/
  | stxZpY (zp : Byte)
  /-- STY zp, opcode $84 (R125, R103). -/
  | styZp (zp : Byte)
  /-- STY addr, opcode $8C (R125, R106). -/
  | styAbs (addr : Word)
  /-- STY zp,X, opcode $94 (R125, R104). -/
  | styZpX (zp : Byte)
  /-- TAX, opcode $AA (R126, R100). -/
  | tax
  /-- TAY, opcode $A8 (R127, R100). -/
  | tay
  /-- TXA, opcode $8A (R128, R100). -/
  | txa
  /-- TYA, opcode $98 (R129, R100). -/
  | tya
  /-- TSX, opcode $BA (R130, R100). -/
  | tsx
  /-- TXS, opcode $9A (R131, R100). -/
  | txs
  /-- ADC (zp,X), opcode $61 (R140, R110). -/
  | adcIndX (zp : Byte)
  /-- ADC zp, opcode $65 (R140, R103). -/
  | adcZp (zp : Byte)
  /-- ADC #imm, opcode $69 (R140, R102). -/
  | adcImm (imm : Byte)
  /-- ADC addr, opcode $6D (R140, R106). -/
  | adcAbs (addr : Word)
  /-- ADC (zp),Y, opcode $71 (R140, R111). -/
  | adcIndY (zp : Byte)
  /-- ADC zp,X, opcode $75 (R140, R104). -/
  | adcZpX (zp : Byte)
  /-- ADC addr,Y, opcode $79 (R140, R108). -/
  | adcAbsY (addr : Word)
  /-- ADC addr,X, opcode $7D (R140, R107). -/
  | adcAbsX (addr : Word)
  /-- SBC (zp,X), opcode $E1 (R141, R110). -/
  | sbcIndX (zp : Byte)
  /-- SBC zp, opcode $E5 (R141, R103). -/
  | sbcZp (zp : Byte)
  /-- SBC #imm, opcode $E9 (R141, R102). -/
  | sbcImm (imm : Byte)
  /-- SBC addr, opcode $ED (R141, R106). -/
  | sbcAbs (addr : Word)
  /-- SBC (zp),Y, opcode $F1 (R141, R111). -/
  | sbcIndY (zp : Byte)
  /-- SBC zp,X, opcode $F5 (R141, R104). -/
  | sbcZpX (zp : Byte)
  /-- SBC addr,Y, opcode $F9 (R141, R108). -/
  | sbcAbsY (addr : Word)
  /-- SBC addr,X, opcode $FD (R141, R107). -/
  | sbcAbsX (addr : Word)
  /-- CMP (zp,X), opcode $C1 (R142, R110). -/
  | cmpIndX (zp : Byte)
  /-- CMP zp, opcode $C5 (R142, R103). -/
  | cmpZp (zp : Byte)
  /-- CMP #imm, opcode $C9 (R142, R102). -/
  | cmpImm (imm : Byte)
  /-- CMP addr, opcode $CD (R142, R106). -/
  | cmpAbs (addr : Word)
  /-- CMP (zp),Y, opcode $D1 (R142, R111). -/
  | cmpIndY (zp : Byte)
  /-- CMP zp,X, opcode $D5 (R142, R104). -/
  | cmpZpX (zp : Byte)
  /-- CMP addr,Y, opcode $D9 (R142, R108). -/
  | cmpAbsY (addr : Word)
  /-- CMP addr,X, opcode $DD (R142, R107). -/
  | cmpAbsX (addr : Word)
  /-- CPX #imm, opcode $E0 (R143, R102). -/
  | cpxImm (imm : Byte)
  /-- CPX zp, opcode $E4 (R143, R103). -/
  | cpxZp (zp : Byte)
  /-- CPX addr, opcode $EC (R143, R106). -/
  | cpxAbs (addr : Word)
  /-- CPY #imm, opcode $C0 (R144, R102). -/
  | cpyImm (imm : Byte)
  /-- CPY zp, opcode $C4 (R144, R103). -/
  | cpyZp (zp : Byte)
  /-- CPY addr, opcode $CC (R144, R106). -/
  | cpyAbs (addr : Word)
  /-- INC zp, opcode $E6 (R145, R103). -/
  | incZp (zp : Byte)
  /-- INC addr, opcode $EE (R145, R106). -/
  | incAbs (addr : Word)
  /-- INC zp,X, opcode $F6 (R145, R104). -/
  | incZpX (zp : Byte)
  /-- INC addr,X, opcode $FE (R145, R107). -/
  | incAbsX (addr : Word)
  /-- INX, opcode $E8 (R146, R100). -/
  | inx
  /-- INY, opcode $C8 (R147, R100). -/
  | iny
  /-- DEC zp, opcode $C6 (R148, R103). -/
  | decZp (zp : Byte)
  /-- DEC addr, opcode $CE (R148, R106). -/
  | decAbs (addr : Word)
  /-- DEC zp,X, opcode $D6 (R148, R104). -/
  | decZpX (zp : Byte)
  /-- DEC addr,X, opcode $DE (R148, R107). -/
  | decAbsX (addr : Word)
  /-- DEX, opcode $CA (R149, R100). -/
  | dex
  /-- DEY, opcode $88 (R150, R100). -/
  | dey
  /-- AND (zp,X), opcode $21 (R160, R110). -/
  | andIndX (zp : Byte)
  /-- AND zp, opcode $25 (R160, R103). -/
  | andZp (zp : Byte)
  /-- AND #imm, opcode $29 (R160, R102). -/
  | andImm (imm : Byte)
  /-- AND addr, opcode $2D (R160, R106). -/
  | andAbs (addr : Word)
  /-- AND (zp),Y, opcode $31 (R160, R111). -/
  | andIndY (zp : Byte)
  /-- AND zp,X, opcode $35 (R160, R104). -/
  | andZpX (zp : Byte)
  /-- AND addr,Y, opcode $39 (R160, R108). -/
  | andAbsY (addr : Word)
  /-- AND addr,X, opcode $3D (R160, R107). -/
  | andAbsX (addr : Word)
  /-- ORA (zp,X), opcode $01 (R161, R110). -/
  | oraIndX (zp : Byte)
  /-- ORA zp, opcode $05 (R161, R103). -/
  | oraZp (zp : Byte)
  /-- ORA #imm, opcode $09 (R161, R102). -/
  | oraImm (imm : Byte)
  /-- ORA addr, opcode $0D (R161, R106). -/
  | oraAbs (addr : Word)
  /-- ORA (zp),Y, opcode $11 (R161, R111). -/
  | oraIndY (zp : Byte)
  /-- ORA zp,X, opcode $15 (R161, R104). -/
  | oraZpX (zp : Byte)
  /-- ORA addr,Y, opcode $19 (R161, R108). -/
  | oraAbsY (addr : Word)
  /-- ORA addr,X, opcode $1D (R161, R107). -/
  | oraAbsX (addr : Word)
  /-- EOR (zp,X), opcode $41 (R162, R110). -/
  | eorIndX (zp : Byte)
  /-- EOR zp, opcode $45 (R162, R103). -/
  | eorZp (zp : Byte)
  /-- EOR #imm, opcode $49 (R162, R102). -/
  | eorImm (imm : Byte)
  /-- EOR addr, opcode $4D (R162, R106). -/
  | eorAbs (addr : Word)
  /-- EOR (zp),Y, opcode $51 (R162, R111). -/
  | eorIndY (zp : Byte)
  /-- EOR zp,X, opcode $55 (R162, R104). -/
  | eorZpX (zp : Byte)
  /-- EOR addr,Y, opcode $59 (R162, R108). -/
  | eorAbsY (addr : Word)
  /-- EOR addr,X, opcode $5D (R162, R107). -/
  | eorAbsX (addr : Word)
  /-- BIT zp, opcode $24 (R163, R103). -/
  | bitZp (zp : Byte)
  /-- BIT addr, opcode $2C (R163, R106). -/
  | bitAbs (addr : Word)
  /-- ASL zp, opcode $06 (R164, R103). -/
  | aslZp (zp : Byte)
  /-- ASL A, opcode $0A (R164, R101). -/
  | aslAcc
  /-- ASL addr, opcode $0E (R164, R106). -/
  | aslAbs (addr : Word)
  /-- ASL zp,X, opcode $16 (R164, R104). -/
  | aslZpX (zp : Byte)
  /-- ASL addr,X, opcode $1E (R164, R107). -/
  | aslAbsX (addr : Word)
  /-- LSR zp, opcode $46 (R165, R103). -/
  | lsrZp (zp : Byte)
  /-- LSR A, opcode $4A (R165, R101). -/
  | lsrAcc
  /-- LSR addr, opcode $4E (R165, R106). -/
  | lsrAbs (addr : Word)
  /-- LSR zp,X, opcode $56 (R165, R104). -/
  | lsrZpX (zp : Byte)
  /-- LSR addr,X, opcode $5E (R165, R107). -/
  | lsrAbsX (addr : Word)
  /-- ROL zp, opcode $26 (R166, R103). -/
  | rolZp (zp : Byte)
  /-- ROL A, opcode $2A (R166, R101). -/
  | rolAcc
  /-- ROL addr, opcode $2E (R166, R106). -/
  | rolAbs (addr : Word)
  /-- ROL zp,X, opcode $36 (R166, R104). -/
  | rolZpX (zp : Byte)
  /-- ROL addr,X, opcode $3E (R166, R107). -/
  | rolAbsX (addr : Word)
  /-- ROR zp, opcode $66 (R167, R103). -/
  | rorZp (zp : Byte)
  /-- ROR A, opcode $6A (R167, R101). -/
  | rorAcc
  /-- ROR addr, opcode $6E (R167, R106). -/
  | rorAbs (addr : Word)
  /-- ROR zp,X, opcode $76 (R167, R104). -/
  | rorZpX (zp : Byte)
  /-- ROR addr,X, opcode $7E (R167, R107). -/
  | rorAbsX (addr : Word)
  /-- BCC rel, opcode $90 (R180, R109). -/
  | bcc (rel : Byte)
  /-- BCS rel, opcode $B0 (R181, R109). -/
  | bcs (rel : Byte)
  /-- BEQ rel, opcode $F0 (R182, R109). -/
  | beq (rel : Byte)
  /-- BNE rel, opcode $D0 (R183, R109). -/
  | bne (rel : Byte)
  /-- BMI rel, opcode $30 (R184, R109). -/
  | bmi (rel : Byte)
  /-- BPL rel, opcode $10 (R185, R109). -/
  | bpl (rel : Byte)
  /-- BVC rel, opcode $50 (R186, R109). -/
  | bvc (rel : Byte)
  /-- BVS rel, opcode $70 (R187, R109). -/
  | bvs (rel : Byte)
  /-- JMP addr, opcode $4C (R188, R106). -/
  | jmpAbs (addr : Word)
  /-- JMP (addr), opcode $6C (R188, R112). -/
  | jmpInd (addr : Word)
  /-- JSR addr, opcode $20 (R189, R106). -/
  | jsr (addr : Word)
  /-- RTS, opcode $60 (R190, R100). -/
  | rts
  /-- PHA, opcode $48 (R200, R100). -/
  | pha
  /-- PHP, opcode $08 (R201, R100). -/
  | php
  /-- PLA, opcode $68 (R202, R100). -/
  | pla
  /-- PLP, opcode $28 (R203, R100). -/
  | plp
  /-- CLC, opcode $18 (R204, R100). -/
  | clc
  /-- SEC, opcode $38 (R205, R100). -/
  | sec
  /-- CLI, opcode $58 (R206, R100). -/
  | cli
  /-- SEI, opcode $78 (R207, R100). -/
  | sei
  /-- CLD, opcode $D8 (R208, R100). -/
  | cld
  /-- SED, opcode $F8 (R209, R100). -/
  | sed
  /-- CLV, opcode $B8 (R210, R100). -/
  | clv
  /-- NOP, opcode $EA (R211, R100). -/
  | nop
  /-- BRK, opcode $00 (R212, R100). -/
  | brk
  /-- RTI, opcode $40 (R213, R100). -/
  | rti
deriving DecidableEq, Repr

end Sys2Proof
end

