-- ==== Sys2Proof/WellFormed.lean ====
section
/-! DEFINITION. When a string of bytes is one instruction of the family (30_encoding.md R80, R81, R84, R85). Every
value of an operand field is legal (R82) and the types of Syntax.lean admit no others, so what can be ill formed is
the bytes: no byte at all, an undefined opcode, or a number of bytes that is not the format's. -/

namespace Sys2Proof

/-- The 105 byte values that are not instructions, as 30_encoding.md R85 lists them. -/
def undefinedOpcodes : List Byte :=
  [0x02, 0x03, 0x04, 0x07, 0x0B, 0x0C, 0x0F, 0x12, 0x13, 0x14, 0x17, 0x1A, 0x1B, 0x1C, 0x1F,
   0x22, 0x23, 0x27, 0x2B, 0x2F, 0x32, 0x33, 0x34, 0x37, 0x3A, 0x3B, 0x3C, 0x3F] ++
  [0x42, 0x43, 0x44, 0x47, 0x4B, 0x4F, 0x52, 0x53, 0x54, 0x57, 0x5A, 0x5B, 0x5C, 0x5F,
   0x62, 0x63, 0x64, 0x67, 0x6B, 0x6F, 0x72, 0x73, 0x74, 0x77, 0x7A, 0x7B, 0x7C, 0x7F] ++
  [0x80, 0x82, 0x83, 0x87, 0x89, 0x8B, 0x8F, 0x92, 0x93, 0x97, 0x9B, 0x9C, 0x9E, 0x9F,
   0xA3, 0xA7, 0xAB, 0xAF, 0xB2, 0xB3, 0xB7, 0xBB, 0xBF] ++
  [0xC2, 0xC3, 0xC7, 0xCB, 0xCF, 0xD2, 0xD3, 0xD4, 0xD7, 0xDA, 0xDB, 0xDC, 0xDF,
   0xE2, 0xE3, 0xE7, 0xEB, 0xEF, 0xF2, 0xF3, 0xF4, 0xF7, 0xFA, 0xFB, 0xFC, 0xFF]

/-- The number of bytes of the instruction a defined opcode starts, read off the columns of the matrix of
30_encoding.md R84 with the lengths of R81. It is written apart from the decoder, as a check on it. -/
def formatLength (opcode : Byte) : Nat :=
  match opcode.toNat % 16 with
  | 0 => if opcode = 0x20 then 3 else if opcode = 0x00 ∨ opcode = 0x40 ∨ opcode = 0x60 then 1 else 2
  | 8 => 1
  | 9 => if opcode.toNat / 16 % 2 = 0 then 2 else 3
  | 10 => 1
  | 12 => 3
  | 13 => 3
  | 14 => 3
  | _ => 2

/-- The bytes are one whole instruction: there is an opcode, it is defined, and the operand has the format's bytes. -/
def wellFormedBytes : List Byte → Bool
  | [] => false
  | opcode :: operand =>
    !undefinedOpcodes.contains opcode && operand.length + 1 == formatLength opcode

end Sys2Proof
end

