-- ==== Sys2Proof/Decode.lean ====
section
/-! DEFINITION. The decoder, total on any bytes, and the encoder (30_encoding.md R80 to R85). The decoder follows the
opcode matrix of R84: a row for each high nibble of byte 0, a column for each low nibble. -/

namespace Sys2Proof

open Machine (loByte hiByte joinBytes)

/-- Row 0 of the opcode matrix (30_encoding.md R84). Byte 1 is the low half of a 16-bit operand (R82). -/
def decodeRow0 (column : Nat) (b1 b2 : Byte) : Option Instr :=
  match column with
  | 0x0 => some (.brk)
  | 0x1 => some (.oraIndX b1)
  | 0x5 => some (.oraZp b1)
  | 0x6 => some (.aslZp b1)
  | 0x8 => some (.php)
  | 0x9 => some (.oraImm b1)
  | 0xA => some (.aslAcc)
  | 0xD => some (.oraAbs (joinBytes b2 b1))
  | 0xE => some (.aslAbs (joinBytes b2 b1))
  | _ => none

/-- Row 1 of the opcode matrix (30_encoding.md R84). Byte 1 is the low half of a 16-bit operand (R82). -/
def decodeRow1 (column : Nat) (b1 b2 : Byte) : Option Instr :=
  match column with
  | 0x0 => some (.bpl b1)
  | 0x1 => some (.oraIndY b1)
  | 0x5 => some (.oraZpX b1)
  | 0x6 => some (.aslZpX b1)
  | 0x8 => some (.clc)
  | 0x9 => some (.oraAbsY (joinBytes b2 b1))
  | 0xD => some (.oraAbsX (joinBytes b2 b1))
  | 0xE => some (.aslAbsX (joinBytes b2 b1))
  | _ => none

/-- Row 2 of the opcode matrix (30_encoding.md R84). Byte 1 is the low half of a 16-bit operand (R82). -/
def decodeRow2 (column : Nat) (b1 b2 : Byte) : Option Instr :=
  match column with
  | 0x0 => some (.jsr (joinBytes b2 b1))
  | 0x1 => some (.andIndX b1)
  | 0x4 => some (.bitZp b1)
  | 0x5 => some (.andZp b1)
  | 0x6 => some (.rolZp b1)
  | 0x8 => some (.plp)
  | 0x9 => some (.andImm b1)
  | 0xA => some (.rolAcc)
  | 0xC => some (.bitAbs (joinBytes b2 b1))
  | 0xD => some (.andAbs (joinBytes b2 b1))
  | 0xE => some (.rolAbs (joinBytes b2 b1))
  | _ => none

/-- Row 3 of the opcode matrix (30_encoding.md R84). Byte 1 is the low half of a 16-bit operand (R82). -/
def decodeRow3 (column : Nat) (b1 b2 : Byte) : Option Instr :=
  match column with
  | 0x0 => some (.bmi b1)
  | 0x1 => some (.andIndY b1)
  | 0x5 => some (.andZpX b1)
  | 0x6 => some (.rolZpX b1)
  | 0x8 => some (.sec)
  | 0x9 => some (.andAbsY (joinBytes b2 b1))
  | 0xD => some (.andAbsX (joinBytes b2 b1))
  | 0xE => some (.rolAbsX (joinBytes b2 b1))
  | _ => none

/-- Row 4 of the opcode matrix (30_encoding.md R84). Byte 1 is the low half of a 16-bit operand (R82). -/
def decodeRow4 (column : Nat) (b1 b2 : Byte) : Option Instr :=
  match column with
  | 0x0 => some (.rti)
  | 0x1 => some (.eorIndX b1)
  | 0x5 => some (.eorZp b1)
  | 0x6 => some (.lsrZp b1)
  | 0x8 => some (.pha)
  | 0x9 => some (.eorImm b1)
  | 0xA => some (.lsrAcc)
  | 0xC => some (.jmpAbs (joinBytes b2 b1))
  | 0xD => some (.eorAbs (joinBytes b2 b1))
  | 0xE => some (.lsrAbs (joinBytes b2 b1))
  | _ => none

/-- Row 5 of the opcode matrix (30_encoding.md R84). Byte 1 is the low half of a 16-bit operand (R82). -/
def decodeRow5 (column : Nat) (b1 b2 : Byte) : Option Instr :=
  match column with
  | 0x0 => some (.bvc b1)
  | 0x1 => some (.eorIndY b1)
  | 0x5 => some (.eorZpX b1)
  | 0x6 => some (.lsrZpX b1)
  | 0x8 => some (.cli)
  | 0x9 => some (.eorAbsY (joinBytes b2 b1))
  | 0xD => some (.eorAbsX (joinBytes b2 b1))
  | 0xE => some (.lsrAbsX (joinBytes b2 b1))
  | _ => none

/-- Row 6 of the opcode matrix (30_encoding.md R84). Byte 1 is the low half of a 16-bit operand (R82). -/
def decodeRow6 (column : Nat) (b1 b2 : Byte) : Option Instr :=
  match column with
  | 0x0 => some (.rts)
  | 0x1 => some (.adcIndX b1)
  | 0x5 => some (.adcZp b1)
  | 0x6 => some (.rorZp b1)
  | 0x8 => some (.pla)
  | 0x9 => some (.adcImm b1)
  | 0xA => some (.rorAcc)
  | 0xC => some (.jmpInd (joinBytes b2 b1))
  | 0xD => some (.adcAbs (joinBytes b2 b1))
  | 0xE => some (.rorAbs (joinBytes b2 b1))
  | _ => none

/-- Row 7 of the opcode matrix (30_encoding.md R84). Byte 1 is the low half of a 16-bit operand (R82). -/
def decodeRow7 (column : Nat) (b1 b2 : Byte) : Option Instr :=
  match column with
  | 0x0 => some (.bvs b1)
  | 0x1 => some (.adcIndY b1)
  | 0x5 => some (.adcZpX b1)
  | 0x6 => some (.rorZpX b1)
  | 0x8 => some (.sei)
  | 0x9 => some (.adcAbsY (joinBytes b2 b1))
  | 0xD => some (.adcAbsX (joinBytes b2 b1))
  | 0xE => some (.rorAbsX (joinBytes b2 b1))
  | _ => none

/-- Row 8 of the opcode matrix (30_encoding.md R84). Byte 1 is the low half of a 16-bit operand (R82). -/
def decodeRow8 (column : Nat) (b1 b2 : Byte) : Option Instr :=
  match column with
  | 0x1 => some (.staIndX b1)
  | 0x4 => some (.styZp b1)
  | 0x5 => some (.staZp b1)
  | 0x6 => some (.stxZp b1)
  | 0x8 => some (.dey)
  | 0xA => some (.txa)
  | 0xC => some (.styAbs (joinBytes b2 b1))
  | 0xD => some (.staAbs (joinBytes b2 b1))
  | 0xE => some (.stxAbs (joinBytes b2 b1))
  | _ => none

/-- Row 9 of the opcode matrix (30_encoding.md R84). Byte 1 is the low half of a 16-bit operand (R82). -/
def decodeRow9 (column : Nat) (b1 b2 : Byte) : Option Instr :=
  match column with
  | 0x0 => some (.bcc b1)
  | 0x1 => some (.staIndY b1)
  | 0x4 => some (.styZpX b1)
  | 0x5 => some (.staZpX b1)
  | 0x6 => some (.stxZpY b1)
  | 0x8 => some (.tya)
  | 0x9 => some (.staAbsY (joinBytes b2 b1))
  | 0xA => some (.txs)
  | 0xD => some (.staAbsX (joinBytes b2 b1))
  | _ => none

/-- Row A of the opcode matrix (30_encoding.md R84). Byte 1 is the low half of a 16-bit operand (R82). -/
def decodeRowA (column : Nat) (b1 b2 : Byte) : Option Instr :=
  match column with
  | 0x0 => some (.ldyImm b1)
  | 0x1 => some (.ldaIndX b1)
  | 0x2 => some (.ldxImm b1)
  | 0x4 => some (.ldyZp b1)
  | 0x5 => some (.ldaZp b1)
  | 0x6 => some (.ldxZp b1)
  | 0x8 => some (.tay)
  | 0x9 => some (.ldaImm b1)
  | 0xA => some (.tax)
  | 0xC => some (.ldyAbs (joinBytes b2 b1))
  | 0xD => some (.ldaAbs (joinBytes b2 b1))
  | 0xE => some (.ldxAbs (joinBytes b2 b1))
  | _ => none

/-- Row B of the opcode matrix (30_encoding.md R84). Byte 1 is the low half of a 16-bit operand (R82). -/
def decodeRowB (column : Nat) (b1 b2 : Byte) : Option Instr :=
  match column with
  | 0x0 => some (.bcs b1)
  | 0x1 => some (.ldaIndY b1)
  | 0x4 => some (.ldyZpX b1)
  | 0x5 => some (.ldaZpX b1)
  | 0x6 => some (.ldxZpY b1)
  | 0x8 => some (.clv)
  | 0x9 => some (.ldaAbsY (joinBytes b2 b1))
  | 0xA => some (.tsx)
  | 0xC => some (.ldyAbsX (joinBytes b2 b1))
  | 0xD => some (.ldaAbsX (joinBytes b2 b1))
  | 0xE => some (.ldxAbsY (joinBytes b2 b1))
  | _ => none

/-- Row C of the opcode matrix (30_encoding.md R84). Byte 1 is the low half of a 16-bit operand (R82). -/
def decodeRowC (column : Nat) (b1 b2 : Byte) : Option Instr :=
  match column with
  | 0x0 => some (.cpyImm b1)
  | 0x1 => some (.cmpIndX b1)
  | 0x4 => some (.cpyZp b1)
  | 0x5 => some (.cmpZp b1)
  | 0x6 => some (.decZp b1)
  | 0x8 => some (.iny)
  | 0x9 => some (.cmpImm b1)
  | 0xA => some (.dex)
  | 0xC => some (.cpyAbs (joinBytes b2 b1))
  | 0xD => some (.cmpAbs (joinBytes b2 b1))
  | 0xE => some (.decAbs (joinBytes b2 b1))
  | _ => none

/-- Row D of the opcode matrix (30_encoding.md R84). Byte 1 is the low half of a 16-bit operand (R82). -/
def decodeRowD (column : Nat) (b1 b2 : Byte) : Option Instr :=
  match column with
  | 0x0 => some (.bne b1)
  | 0x1 => some (.cmpIndY b1)
  | 0x5 => some (.cmpZpX b1)
  | 0x6 => some (.decZpX b1)
  | 0x8 => some (.cld)
  | 0x9 => some (.cmpAbsY (joinBytes b2 b1))
  | 0xD => some (.cmpAbsX (joinBytes b2 b1))
  | 0xE => some (.decAbsX (joinBytes b2 b1))
  | _ => none

/-- Row E of the opcode matrix (30_encoding.md R84). Byte 1 is the low half of a 16-bit operand (R82). -/
def decodeRowE (column : Nat) (b1 b2 : Byte) : Option Instr :=
  match column with
  | 0x0 => some (.cpxImm b1)
  | 0x1 => some (.sbcIndX b1)
  | 0x4 => some (.cpxZp b1)
  | 0x5 => some (.sbcZp b1)
  | 0x6 => some (.incZp b1)
  | 0x8 => some (.inx)
  | 0x9 => some (.sbcImm b1)
  | 0xA => some (.nop)
  | 0xC => some (.cpxAbs (joinBytes b2 b1))
  | 0xD => some (.sbcAbs (joinBytes b2 b1))
  | 0xE => some (.incAbs (joinBytes b2 b1))
  | _ => none

/-- Row F of the opcode matrix (30_encoding.md R84). Byte 1 is the low half of a 16-bit operand (R82). -/
def decodeRowF (column : Nat) (b1 b2 : Byte) : Option Instr :=
  match column with
  | 0x0 => some (.beq b1)
  | 0x1 => some (.sbcIndY b1)
  | 0x5 => some (.sbcZpX b1)
  | 0x6 => some (.incZpX b1)
  | 0x8 => some (.sed)
  | 0x9 => some (.sbcAbsY (joinBytes b2 b1))
  | 0xD => some (.sbcAbsX (joinBytes b2 b1))
  | 0xE => some (.incAbsX (joinBytes b2 b1))
  | _ => none

/-- The instruction whose bytes 0, 1 and 2 are given, if byte 0 is a defined opcode. A shorter instruction does not
depend on the bytes after it (30_encoding.md R80). -/
def decodeMatrix (b0 b1 b2 : Byte) : Option Instr :=
  let column := b0.toNat % 16
  match b0.toNat / 16 with
  | 0x0 => decodeRow0 column b1 b2
  | 0x1 => decodeRow1 column b1 b2
  | 0x2 => decodeRow2 column b1 b2
  | 0x3 => decodeRow3 column b1 b2
  | 0x4 => decodeRow4 column b1 b2
  | 0x5 => decodeRow5 column b1 b2
  | 0x6 => decodeRow6 column b1 b2
  | 0x7 => decodeRow7 column b1 b2
  | 0x8 => decodeRow8 column b1 b2
  | 0x9 => decodeRow9 column b1 b2
  | 0xA => decodeRowA column b1 b2
  | 0xB => decodeRowB column b1 b2
  | 0xC => decodeRowC column b1 b2
  | 0xD => decodeRowD column b1 b2
  | 0xE => decodeRowE column b1 b2
  | 0xF => decodeRowF column b1 b2
  | _ => none

/-- Why bytes are not decoded. -/
inductive DecodeError where
  /-- Byte 0 is one of the 105 undefined opcodes (30_encoding.md R85). -/
  | undefinedOpcode (opcode : Byte)
  /-- The bytes end before the instruction does. -/
  | tooFewBytes
deriving DecidableEq, Repr

/-- The decoder on three bytes, the longest instruction. -/
def decode (b0 b1 b2 : Byte) : Except DecodeError Instr :=
  match decodeMatrix b0 b1 b2 with
  | some i => .ok i
  | none => .error (.undefinedOpcode b0)

/-! ## The encoder -/

/-- Byte 0 of an instruction (30_encoding.md R84, opcode_table.json). -/
def opcode : Instr → Byte
  | .ldaIndX _ => 0xA1#8
  | .ldaZp _ => 0xA5#8
  | .ldaImm _ => 0xA9#8
  | .ldaAbs _ => 0xAD#8
  | .ldaIndY _ => 0xB1#8
  | .ldaZpX _ => 0xB5#8
  | .ldaAbsY _ => 0xB9#8
  | .ldaAbsX _ => 0xBD#8
  | .ldxImm _ => 0xA2#8
  | .ldxZp _ => 0xA6#8
  | .ldxAbs _ => 0xAE#8
  | .ldxZpY _ => 0xB6#8
  | .ldxAbsY _ => 0xBE#8
  | .ldyImm _ => 0xA0#8
  | .ldyZp _ => 0xA4#8
  | .ldyAbs _ => 0xAC#8
  | .ldyZpX _ => 0xB4#8
  | .ldyAbsX _ => 0xBC#8
  | .staIndX _ => 0x81#8
  | .staZp _ => 0x85#8
  | .staAbs _ => 0x8D#8
  | .staIndY _ => 0x91#8
  | .staZpX _ => 0x95#8
  | .staAbsY _ => 0x99#8
  | .staAbsX _ => 0x9D#8
  | .stxZp _ => 0x86#8
  | .stxAbs _ => 0x8E#8
  | .stxZpY _ => 0x96#8
  | .styZp _ => 0x84#8
  | .styAbs _ => 0x8C#8
  | .styZpX _ => 0x94#8
  | .tax => 0xAA#8
  | .tay => 0xA8#8
  | .txa => 0x8A#8
  | .tya => 0x98#8
  | .tsx => 0xBA#8
  | .txs => 0x9A#8
  | .adcIndX _ => 0x61#8
  | .adcZp _ => 0x65#8
  | .adcImm _ => 0x69#8
  | .adcAbs _ => 0x6D#8
  | .adcIndY _ => 0x71#8
  | .adcZpX _ => 0x75#8
  | .adcAbsY _ => 0x79#8
  | .adcAbsX _ => 0x7D#8
  | .sbcIndX _ => 0xE1#8
  | .sbcZp _ => 0xE5#8
  | .sbcImm _ => 0xE9#8
  | .sbcAbs _ => 0xED#8
  | .sbcIndY _ => 0xF1#8
  | .sbcZpX _ => 0xF5#8
  | .sbcAbsY _ => 0xF9#8
  | .sbcAbsX _ => 0xFD#8
  | .cmpIndX _ => 0xC1#8
  | .cmpZp _ => 0xC5#8
  | .cmpImm _ => 0xC9#8
  | .cmpAbs _ => 0xCD#8
  | .cmpIndY _ => 0xD1#8
  | .cmpZpX _ => 0xD5#8
  | .cmpAbsY _ => 0xD9#8
  | .cmpAbsX _ => 0xDD#8
  | .cpxImm _ => 0xE0#8
  | .cpxZp _ => 0xE4#8
  | .cpxAbs _ => 0xEC#8
  | .cpyImm _ => 0xC0#8
  | .cpyZp _ => 0xC4#8
  | .cpyAbs _ => 0xCC#8
  | .incZp _ => 0xE6#8
  | .incAbs _ => 0xEE#8
  | .incZpX _ => 0xF6#8
  | .incAbsX _ => 0xFE#8
  | .inx => 0xE8#8
  | .iny => 0xC8#8
  | .decZp _ => 0xC6#8
  | .decAbs _ => 0xCE#8
  | .decZpX _ => 0xD6#8
  | .decAbsX _ => 0xDE#8
  | .dex => 0xCA#8
  | .dey => 0x88#8
  | .andIndX _ => 0x21#8
  | .andZp _ => 0x25#8
  | .andImm _ => 0x29#8
  | .andAbs _ => 0x2D#8
  | .andIndY _ => 0x31#8
  | .andZpX _ => 0x35#8
  | .andAbsY _ => 0x39#8
  | .andAbsX _ => 0x3D#8
  | .oraIndX _ => 0x01#8
  | .oraZp _ => 0x05#8
  | .oraImm _ => 0x09#8
  | .oraAbs _ => 0x0D#8
  | .oraIndY _ => 0x11#8
  | .oraZpX _ => 0x15#8
  | .oraAbsY _ => 0x19#8
  | .oraAbsX _ => 0x1D#8
  | .eorIndX _ => 0x41#8
  | .eorZp _ => 0x45#8
  | .eorImm _ => 0x49#8
  | .eorAbs _ => 0x4D#8
  | .eorIndY _ => 0x51#8
  | .eorZpX _ => 0x55#8
  | .eorAbsY _ => 0x59#8
  | .eorAbsX _ => 0x5D#8
  | .bitZp _ => 0x24#8
  | .bitAbs _ => 0x2C#8
  | .aslZp _ => 0x06#8
  | .aslAcc => 0x0A#8
  | .aslAbs _ => 0x0E#8
  | .aslZpX _ => 0x16#8
  | .aslAbsX _ => 0x1E#8
  | .lsrZp _ => 0x46#8
  | .lsrAcc => 0x4A#8
  | .lsrAbs _ => 0x4E#8
  | .lsrZpX _ => 0x56#8
  | .lsrAbsX _ => 0x5E#8
  | .rolZp _ => 0x26#8
  | .rolAcc => 0x2A#8
  | .rolAbs _ => 0x2E#8
  | .rolZpX _ => 0x36#8
  | .rolAbsX _ => 0x3E#8
  | .rorZp _ => 0x66#8
  | .rorAcc => 0x6A#8
  | .rorAbs _ => 0x6E#8
  | .rorZpX _ => 0x76#8
  | .rorAbsX _ => 0x7E#8
  | .bcc _ => 0x90#8
  | .bcs _ => 0xB0#8
  | .beq _ => 0xF0#8
  | .bne _ => 0xD0#8
  | .bmi _ => 0x30#8
  | .bpl _ => 0x10#8
  | .bvc _ => 0x50#8
  | .bvs _ => 0x70#8
  | .jmpAbs _ => 0x4C#8
  | .jmpInd _ => 0x6C#8
  | .jsr _ => 0x20#8
  | .rts => 0x60#8
  | .pha => 0x48#8
  | .php => 0x08#8
  | .pla => 0x68#8
  | .plp => 0x28#8
  | .clc => 0x18#8
  | .sec => 0x38#8
  | .cli => 0x58#8
  | .sei => 0x78#8
  | .cld => 0xD8#8
  | .sed => 0xF8#8
  | .clv => 0xB8#8
  | .nop => 0xEA#8
  | .brk => 0x00#8
  | .rti => 0x40#8

/-- The bytes after byte 0 (30_encoding.md R81, R82): the low byte of a 16-bit operand comes first. -/
def operandBytes : Instr → List Byte
  | .ldaIndX zp => [zp]
  | .ldaZp zp => [zp]
  | .ldaImm imm => [imm]
  | .ldaAbs addr => [loByte addr, hiByte addr]
  | .ldaIndY zp => [zp]
  | .ldaZpX zp => [zp]
  | .ldaAbsY addr => [loByte addr, hiByte addr]
  | .ldaAbsX addr => [loByte addr, hiByte addr]
  | .ldxImm imm => [imm]
  | .ldxZp zp => [zp]
  | .ldxAbs addr => [loByte addr, hiByte addr]
  | .ldxZpY zp => [zp]
  | .ldxAbsY addr => [loByte addr, hiByte addr]
  | .ldyImm imm => [imm]
  | .ldyZp zp => [zp]
  | .ldyAbs addr => [loByte addr, hiByte addr]
  | .ldyZpX zp => [zp]
  | .ldyAbsX addr => [loByte addr, hiByte addr]
  | .staIndX zp => [zp]
  | .staZp zp => [zp]
  | .staAbs addr => [loByte addr, hiByte addr]
  | .staIndY zp => [zp]
  | .staZpX zp => [zp]
  | .staAbsY addr => [loByte addr, hiByte addr]
  | .staAbsX addr => [loByte addr, hiByte addr]
  | .stxZp zp => [zp]
  | .stxAbs addr => [loByte addr, hiByte addr]
  | .stxZpY zp => [zp]
  | .styZp zp => [zp]
  | .styAbs addr => [loByte addr, hiByte addr]
  | .styZpX zp => [zp]
  | .tax => []
  | .tay => []
  | .txa => []
  | .tya => []
  | .tsx => []
  | .txs => []
  | .adcIndX zp => [zp]
  | .adcZp zp => [zp]
  | .adcImm imm => [imm]
  | .adcAbs addr => [loByte addr, hiByte addr]
  | .adcIndY zp => [zp]
  | .adcZpX zp => [zp]
  | .adcAbsY addr => [loByte addr, hiByte addr]
  | .adcAbsX addr => [loByte addr, hiByte addr]
  | .sbcIndX zp => [zp]
  | .sbcZp zp => [zp]
  | .sbcImm imm => [imm]
  | .sbcAbs addr => [loByte addr, hiByte addr]
  | .sbcIndY zp => [zp]
  | .sbcZpX zp => [zp]
  | .sbcAbsY addr => [loByte addr, hiByte addr]
  | .sbcAbsX addr => [loByte addr, hiByte addr]
  | .cmpIndX zp => [zp]
  | .cmpZp zp => [zp]
  | .cmpImm imm => [imm]
  | .cmpAbs addr => [loByte addr, hiByte addr]
  | .cmpIndY zp => [zp]
  | .cmpZpX zp => [zp]
  | .cmpAbsY addr => [loByte addr, hiByte addr]
  | .cmpAbsX addr => [loByte addr, hiByte addr]
  | .cpxImm imm => [imm]
  | .cpxZp zp => [zp]
  | .cpxAbs addr => [loByte addr, hiByte addr]
  | .cpyImm imm => [imm]
  | .cpyZp zp => [zp]
  | .cpyAbs addr => [loByte addr, hiByte addr]
  | .incZp zp => [zp]
  | .incAbs addr => [loByte addr, hiByte addr]
  | .incZpX zp => [zp]
  | .incAbsX addr => [loByte addr, hiByte addr]
  | .inx => []
  | .iny => []
  | .decZp zp => [zp]
  | .decAbs addr => [loByte addr, hiByte addr]
  | .decZpX zp => [zp]
  | .decAbsX addr => [loByte addr, hiByte addr]
  | .dex => []
  | .dey => []
  | .andIndX zp => [zp]
  | .andZp zp => [zp]
  | .andImm imm => [imm]
  | .andAbs addr => [loByte addr, hiByte addr]
  | .andIndY zp => [zp]
  | .andZpX zp => [zp]
  | .andAbsY addr => [loByte addr, hiByte addr]
  | .andAbsX addr => [loByte addr, hiByte addr]
  | .oraIndX zp => [zp]
  | .oraZp zp => [zp]
  | .oraImm imm => [imm]
  | .oraAbs addr => [loByte addr, hiByte addr]
  | .oraIndY zp => [zp]
  | .oraZpX zp => [zp]
  | .oraAbsY addr => [loByte addr, hiByte addr]
  | .oraAbsX addr => [loByte addr, hiByte addr]
  | .eorIndX zp => [zp]
  | .eorZp zp => [zp]
  | .eorImm imm => [imm]
  | .eorAbs addr => [loByte addr, hiByte addr]
  | .eorIndY zp => [zp]
  | .eorZpX zp => [zp]
  | .eorAbsY addr => [loByte addr, hiByte addr]
  | .eorAbsX addr => [loByte addr, hiByte addr]
  | .bitZp zp => [zp]
  | .bitAbs addr => [loByte addr, hiByte addr]
  | .aslZp zp => [zp]
  | .aslAcc => []
  | .aslAbs addr => [loByte addr, hiByte addr]
  | .aslZpX zp => [zp]
  | .aslAbsX addr => [loByte addr, hiByte addr]
  | .lsrZp zp => [zp]
  | .lsrAcc => []
  | .lsrAbs addr => [loByte addr, hiByte addr]
  | .lsrZpX zp => [zp]
  | .lsrAbsX addr => [loByte addr, hiByte addr]
  | .rolZp zp => [zp]
  | .rolAcc => []
  | .rolAbs addr => [loByte addr, hiByte addr]
  | .rolZpX zp => [zp]
  | .rolAbsX addr => [loByte addr, hiByte addr]
  | .rorZp zp => [zp]
  | .rorAcc => []
  | .rorAbs addr => [loByte addr, hiByte addr]
  | .rorZpX zp => [zp]
  | .rorAbsX addr => [loByte addr, hiByte addr]
  | .bcc rel => [rel]
  | .bcs rel => [rel]
  | .beq rel => [rel]
  | .bne rel => [rel]
  | .bmi rel => [rel]
  | .bpl rel => [rel]
  | .bvc rel => [rel]
  | .bvs rel => [rel]
  | .jmpAbs addr => [loByte addr, hiByte addr]
  | .jmpInd addr => [loByte addr, hiByte addr]
  | .jsr addr => [loByte addr, hiByte addr]
  | .rts => []
  | .pha => []
  | .php => []
  | .pla => []
  | .plp => []
  | .clc => []
  | .sec => []
  | .cli => []
  | .sei => []
  | .cld => []
  | .sed => []
  | .clv => []
  | .nop => []
  | .brk => []
  | .rti => []

/-- The words of an instruction, in memory order (30_encoding.md R80). -/
def encode (i : Instr) : List Byte := opcode i :: operandBytes i

/-- The number of bytes of an instruction (30_encoding.md R81). -/
def instrLength (i : Instr) : Nat := 1 + (operandBytes i).length

/-- An instruction is well formed if its words are. Every term of `Instr` is (log 28). -/
def Instr.wellFormed (i : Instr) : Bool := wellFormedBytes (encode i)

/-- The number of bytes of the instruction an opcode starts (30_encoding.md R80), none for an undefined opcode. -/
def opcodeLength (b0 : Byte) : Option Nat := (decodeMatrix b0 0 0).map instrLength

/-- Decodes one instruction from the front of a string of bytes and answers the bytes after it. -/
def decodeBytes : List Byte → Except DecodeError (Instr × List Byte)
  | [] => .error .tooFewBytes
  | b0 :: rest =>
    match decode b0 (rest.getD 0 0) (rest.getD 1 0) with
    | .error e => .error e
    | .ok i =>
      if rest.length < (operandBytes i).length then .error .tooFewBytes
      else .ok (i, rest.drop (operandBytes i).length)

/-! ## The words of the opcode table -/

/-- Byte `k` of an instruction whose first `nbits` bits are `w`, byte 0 the lowest eight bits; 0 beyond them. -/
def tableByte (nbits w k : Nat) : Byte := if 8 * k < nbits then BitVec.ofNat 8 (w / 256 ^ k) else 0#8

/-- The instruction the decoder reads from a word of the opcode table. -/
def decodeTableWord (nbits w : Nat) : Option Instr :=
  match decode (tableByte nbits w 0) (tableByte nbits w 1) (tableByte nbits w 2) with
  | .ok i => some i
  | .error _ => none

end Sys2Proof
end

