-- ==== Sys2Proof/Config.lean ====
section
/-! DEFINITION. What a member of the family and a board around it fix (00_scope.md R5, 20_memory.md R57), and the
values the spec leaves free (93_implementation_defined.md). The member's pins and the map are read in
Machine/Platform.lean. -/

namespace Sys2Proof

/-- The nine members (00_scope.md R2). There is no MCS6516 (90_conflicts.md C1). -/
inductive Member where
  | mcs6502 | mcs6503 | mcs6504 | mcs6505 | mcs6506
  | mcs6512 | mcs6513 | mcs6514 | mcs6515
deriving DecidableEq, Repr

/-- The clock of a member (00_scope.md R5, parameter CLOCK). -/
inductive ClockSource where
  | onChip
  | externalTwoPhase
deriving DecidableEq, Repr

/-- The two maximum operating frequencies (00_scope.md R4, parameter SPEED). -/
inductive SpeedGrade where
  | oneMHz
  | twoMHz
deriving DecidableEq, Repr

/-- How the platform answers at an address (20_memory.md R57, parameter MAP). -/
inductive RegionKind where
  /-- A read returns the last byte written. -/
  | ram
  /-- A read returns the fixed byte, a write changes nothing. -/
  | rom
  /-- Reads return bytes the environment chooses, and the device sees every access. -/
  | device
  /-- A read returns an unspecified byte, a write changes nothing. -/
  | unmapped
deriving DecidableEq, Repr

/-- A run of `size` bus addresses from `base`, all of one kind. -/
structure Region where
  base : Nat
  size : Nat
  kind : RegionKind
deriving DecidableEq, Repr

/-- The parameters of the spec (00_scope.md R5, 92_eei_decisions.md D2, D12). No step changes them. -/
structure Config where
  member : Member
  speed : SpeedGrade
  /-- The first region that holds an address decides. An address in no region is RAM (log 5). -/
  map : List Region
deriving DecidableEq, Repr

/-- The bytes the spec leaves free: an arbitrary byte for each use (93_implementation_defined.md U1, U3, U5, U6). It has
no body, so nothing can be proved of its values (log 6). -/
opaque Config.freeByte : Nat → Byte

/-- The bits the spec leaves free: an arbitrary bit for each use (93_implementation_defined.md U1, U2, U3), as
`Config.freeByte` (log 6). -/
opaque Config.freeBit : Nat → Bool

/-- DESIGN CHOICE (unsafe, log 4): what a byte of memory reads as that nothing has written. The spec leaves
RAM at power-up unspecified (10_state.md R39, 93_implementation_defined.md U1). -/
def Config.unwrittenByte : Byte := 0x00#8

end Sys2Proof
end

