-- ==== Sys2Proof/Machine/Memory.lean ====
section
/-! DEFINITION. Memory as a list of bus addresses and bytes in one canonical form (10_state.md R33, 20_memory.md R54):
addresses strictly rising, and no entry equal to what an unlisted address reads as. -/

namespace Sys2Proof.Machine

/-- Bus addresses and their bytes. A bus address is a processor address reduced mod 2^ABITS (20_memory.md R51). -/
abbrev Memory := List Host.Cell

/-- The byte at a bus address. An unlisted address reads as `Config.unwrittenByte` (log 4). -/
def Memory.read : Memory → Nat → Byte
  | [], _ => Config.unwrittenByte
  | c :: rest, n => if c.1 = n then c.2 else Memory.read rest n

/-- Puts a cell before the first one with a greater address. -/
def Memory.insert : Memory → Nat → Byte → Memory
  | [], n, v => [(n, v)]
  | c :: rest, n, v => if n < c.1 then (n, v) :: c :: rest else c :: Memory.insert rest n v

/-- Sets the byte at a bus address (20_memory.md R54). Writing what an unlisted address reads as removes the entry. -/
def Memory.write (m : Memory) (n : Nat) (v : Byte) : Memory :=
  let others := List.filter (fun c => c.1 != n) m
  if v = Config.unwrittenByte then others else Memory.insert others n v

/-- The canonical form holds. -/
def Memory.wf : Memory → Bool
  | [] => true
  | c :: rest => c.2 != Config.unwrittenByte && List.all rest (fun d => decide (c.1 < d.1)) && Memory.wf rest

/-- Every listed address is below `n`. -/
def Memory.below (m : Memory) (n : Nat) : Bool := List.all m (fun c => decide (c.1 < n))

end Sys2Proof.Machine
end

