-- ==== Sys2Proof/Machine/State.lean ====
section
/-! DEFINITION. The state of the machine (10_state.md), the reasons a step can stop, and the state after reset
(10_state.md R39). State is plain data and holds every piece of state the spec names: the processor's registers and
hidden latches, memory, the parameters of the platform, and the environment's pins. -/

namespace Sys2Proof.Machine

/-- The six one-bit flags the processor holds (10_state.md R25). Bits 5 and 4 of a pushed copy are not state (R28). -/
structure Flags where
  /-- Negative (R26). -/
  n : Bool
  /-- Overflow (R27). -/
  v : Bool
  /-- Decimal mode (R29). -/
  d : Bool
  /-- Interrupt mask (R30). -/
  i : Bool
  /-- Zero (R31). -/
  z : Bool
  /-- Carry (R32). -/
  c : Bool
deriving DecidableEq, Repr

/-- How RES goes low during a step (60_exceptions.md R238). When it does is the environment's choice, and so is how long
the processor still goes on, since the spec does not say whether it finishes the instruction in progress
(91_not_in_source.md N15). -/
structure ResFall where
  /-- How many bus cycles of the step, after its first, are over when RES goes low. -/
  after : Nat
  /-- How many bus cycles more the processor would go on for. Those of them that write are inhibited (20_memory.md
  R67). -/
  goesOn : Nat
deriving DecidableEq, Repr

/-- What the environment shows the processor at one instruction boundary, and during the step that starts there
(60_exceptions.md R226, R237). The environment chooses every field, so a claim about all samples is a claim about
every behaviour the spec admits. -/
structure Sample where
  /-- RES is seen low (10_state.md R38). -/
  resLow : Bool
  /-- NMI has made a negative edge since the last boundary (10_state.md R34). -/
  nmiEdge : Bool
  /-- IRQ is seen low (10_state.md R35). -/
  irqLow : Bool
  /-- RDY is seen low (10_state.md R37). -/
  rdyLow : Bool
  /-- S.O. has made a negative edge since the last boundary (10_state.md R36). -/
  soEdge : Bool
  /-- At the boundary right after CLI, SEI or PLP: the mask examined is the old I (60_exceptions.md R226). -/
  useOldMask : Bool
  /-- NMI makes a negative edge during this step, before the vector fetch if the step is a BRK or IRQ sequence
  (60_exceptions.md R232). -/
  nmiDuring : Bool
  /-- S.O. makes a negative edge during this step, after its last read and its last write of V (10_state.md R36). -/
  soDuring : Bool
  /-- RES goes low during this step, and when (60_exceptions.md R238). -/
  resDuring : Option ResFall
deriving DecidableEq, Repr

/-- Every line high, no edge: what an undriven pin shows (60_exceptions.md R224). -/
def Sample.idle : Sample :=
  { resLow := false, nmiEdge := false, irqLow := false, rdyLow := false, soEdge := false,
    useOldMask := false, nmiDuring := false, soDuring := false, resDuring := none }

/-- One bus cycle as the platform sees it (20_memory.md R54). -/
structure BusCycle where
  /-- The address on the pins, already reduced mod 2^ABITS (20_memory.md R51). -/
  addr : Nat
  /-- R/W is low (10_state.md R41). -/
  write : Bool
  /-- The byte on the data bus. -/
  data : Byte
  /-- SYNC is high: the cycle is an OP CODE fetch, on a member that has the pin (10_state.md R40). -/
  sync : Bool
deriving DecidableEq, Repr

/-- One write of a DMA master (20_memory.md R63). -/
structure DmaWrite where
  addr : Word
  data : Byte
deriving DecidableEq, Repr

/-- The environment (10_state.md R19), as plain data. -/
structure Env where
  /-- The samples of the boundaries to come, the next one first. None left: the platform is idle (log 7). -/
  samples : List Sample
  /-- The sample of the step in progress, or of the last step. -/
  now : Sample
  /-- The DMA writes of the processor's read cycles to come, one entry a cycle (20_memory.md R63, log 14). -/
  dma : List (List DmaWrite)
  /-- The bytes devices will put on the bus, in the order of the reads (20_memory.md R57, log 15). -/
  deviceIn : List Byte
  /-- The bus cycles of the step in progress or of the last step, oldest first (log 16). -/
  trace : List BusCycle
  /-- The MODEL's own: how many free values have been used (log 6). -/
  free : Nat
deriving DecidableEq, Repr

/-- The machine. -/
structure State where
  /-- The accumulator (10_state.md R20). -/
  a : Byte
  /-- Index register X (10_state.md R21). -/
  x : Byte
  /-- Index register Y (10_state.md R22). -/
  y : Byte
  /-- The stack pointer S (10_state.md R23). -/
  sp : Byte
  /-- The program counter (10_state.md R24). -/
  pc : Word
  /-- The processor status register (10_state.md R25). -/
  p : Flags
  /-- Memory by bus address (10_state.md R33). -/
  mem : Memory
  /-- The NMI edge latch `nmi_pending` (10_state.md R34). -/
  nmiPending : Bool
  /-- The I that CLI, SEI or PLP replaced, until the next boundary is over (60_exceptions.md R226). -/
  oldI : Option Bool
  /-- RES has been low and the reset sequence has not run yet (60_exceptions.md R238). -/
  inReset : Bool
  /-- The member and the memory map (00_scope.md R5, 20_memory.md R57). -/
  cfg : Config
  /-- The environment (10_state.md R19). -/
  env : Env
deriving DecidableEq, Repr

/-- The reasons the machine stops with a fault: none. The hardware raises no fault of any kind (60_exceptions.md
R221; 93_implementation_defined.md: no behaviour is treated as `fault`), so no step of the model faults. -/
inductive Fault where
deriving DecidableEq, Repr

/-- The reasons a step has no meaning. -/
inductive Refusal where
  /-- Raised by `exec` for an instruction without a meaning yet. Safe: nothing is claimed of it. -/
  | notModelled (mnemonic : String)
  /-- Raised by `step` when an OP CODE fetch reads one of the 105 undefined bytes (30_encoding.md R85,
  93_implementation_defined.md U4). Safe: the spec tells a model to refuse there (log 19). -/
  | undefinedOpcode (opcode : Byte)
deriving DecidableEq, Repr

/-- An environment that asks for nothing (log 7). -/
def Env.idle : Env :=
  { samples := [], now := Sample.idle, dma := [], deviceIn := [], trace := [], free := 0 }

/-- The platform after reset. DESIGN CHOICE (log 5): an MCS6502 at 1 MHz with RAM everywhere. -/
def platformAtReset : Config := { member := .mcs6502, speed := .oneMHz, map := [] }

/-- The machine right after the reset sequence (10_state.md R39). I is 1 and PC is the 16-bit value at $FFFC (low) and
$FFFD (high), of a memory in which nothing is listed. DESIGN CHOICE (unsafe) for what the spec leaves
unspecified: A, X, Y are $00 (log 1), S is $FD (log 2), N, V, D, Z, C are 0 (log 3), memory reads $00 (log 4). -/
def State.reset : State :=
  { a := 0x00#8
    x := 0x00#8
    y := 0x00#8
    sp := 0xFD#8
    pc := joinBytes (Memory.read [] 0xFFFD) (Memory.read [] 0xFFFC)
    p := { n := false, v := false, d := false, i := true, z := false, c := false }
    mem := []
    nmiPending := false
    oldI := none
    inReset := false
    cfg := platformAtReset
    env := Env.idle }

/-! Updates of one field, each with its lemmas in Laws/State.lean. -/

def State.setA (s : State) (v : Byte) : State := { s with a := v }
def State.setX (s : State) (v : Byte) : State := { s with x := v }
def State.setY (s : State) (v : Byte) : State := { s with y := v }
def State.setSp (s : State) (v : Byte) : State := { s with sp := v }
def State.setPc (s : State) (v : Word) : State := { s with pc := v }
def State.setP (s : State) (v : Flags) : State := { s with p := v }
def State.setMem (s : State) (v : Memory) : State := { s with mem := v }
def State.setNmiPending (s : State) (v : Bool) : State := { s with nmiPending := v }
def State.setOldI (s : State) (v : Option Bool) : State := { s with oldI := v }
def State.setInReset (s : State) (v : Bool) : State := { s with inReset := v }
def State.setEnv (s : State) (v : Env) : State := { s with env := v }

end Sys2Proof.Machine
end

