-- ==== Sys2Proof/Machine/Platform.lean ====
section
/-! DEFINITION. What each member of the family has (00_scope.md R5) and how an address reaches the platform
(20_memory.md R51, R57). -/

namespace Sys2Proof.Machine

/-- ABITS, the number of address pins (00_scope.md R5). -/
def addressPins : Member → Nat
  | .mcs6502 => 16 | .mcs6503 => 12 | .mcs6504 => 13 | .mcs6505 => 12 | .mcs6506 => 12
  | .mcs6512 => 16 | .mcs6513 => 12 | .mcs6514 => 13 | .mcs6515 => 12

/-- HAS_NMI (00_scope.md R5). -/
def hasNmi : Member → Bool
  | .mcs6502 => true | .mcs6503 => true | .mcs6504 => false | .mcs6505 => false | .mcs6506 => false
  | .mcs6512 => true | .mcs6513 => true | .mcs6514 => false | .mcs6515 => false

/-- HAS_RDY (00_scope.md R5). -/
def hasRdy : Member → Bool
  | .mcs6502 => true | .mcs6503 => false | .mcs6504 => false | .mcs6505 => true | .mcs6506 => false
  | .mcs6512 => true | .mcs6513 => false | .mcs6514 => false | .mcs6515 => true

/-- HAS_SO (00_scope.md R5). -/
def hasSo : Member → Bool
  | .mcs6502 => true | .mcs6503 => false | .mcs6504 => false | .mcs6505 => false | .mcs6506 => false
  | .mcs6512 => true | .mcs6513 => false | .mcs6514 => false | .mcs6515 => false

/-- HAS_SYNC (00_scope.md R5). -/
def hasSync : Member → Bool
  | .mcs6502 => true | .mcs6503 => false | .mcs6504 => false | .mcs6505 => false | .mcs6506 => false
  | .mcs6512 => true | .mcs6513 => false | .mcs6514 => false | .mcs6515 => false

/-- HAS_DBE (00_scope.md R5). DBE is taken to be high in every write cycle (20_memory.md R66), so nothing reads this. -/
def hasDbe : Member → Bool
  | .mcs6502 => false | .mcs6503 => false | .mcs6504 => false | .mcs6505 => false | .mcs6506 => false
  | .mcs6512 => true | .mcs6513 => false | .mcs6514 => false | .mcs6515 => false

/-- CLOCK (00_scope.md R5). It has no effect on state (92_eei_decisions.md, summary of parameters). -/
def clockSource : Member → ClockSource
  | .mcs6502 => .onChip | .mcs6503 => .onChip | .mcs6504 => .onChip | .mcs6505 => .onChip | .mcs6506 => .onChip
  | .mcs6512 => .externalTwoPhase | .mcs6513 => .externalTwoPhase | .mcs6514 => .externalTwoPhase
  | .mcs6515 => .externalTwoPhase

/-- The least cycle time in nanoseconds (70_reset_and_hazards.md R272). Timing only, it has no effect on state. -/
def minCycleNs : SpeedGrade → Nat
  | .oneMHz => 1000
  | .twoMHz => 500

/-- The address on the pins: `addr mod 2^ABITS` (20_memory.md R51). -/
def busAddr (m : Member) (addr : Word) : Nat := addr.toNat % 2 ^ addressPins m

/-- The kind of a bus address: that of the first region that holds it (20_memory.md R57), RAM in none (log 5). -/
def kindAt : List Region → Nat → RegionKind
  | [], _ => .ram
  | r :: rest, n => if r.base ≤ n ∧ n < r.base + r.size then r.kind else kindAt rest n

/-- The kind of the address as the platform of `s` maps it. -/
def State.kindOf (s : State) (addr : Word) : RegionKind := kindAt s.cfg.map (busAddr s.cfg.member addr)

/-- The byte memory holds at an address, with no bus cycle made. -/
def State.peek (s : State) (addr : Word) : Byte := s.mem.read (busAddr s.cfg.member addr)

end Sys2Proof.Machine
end

