-- ==== Sys2Proof/Machine/Ops.lean ====
section
/-! DEFINITION. The shared operations: bus cycles (20_memory.md R54), DMA (R63), the stack (10_state.md R23), taking a
trap (60_exceptions.md R230) and returning from one (45_stack_flag_system.md R213). Reads answer the byte and the
state after the cycle, since a read can be an event for a device. -/

namespace Sys2Proof.Machine

/-! ## Bus cycles -/

/-- Sets a byte of memory where the map makes it writable (20_memory.md R54, R57). `n` is a bus address. -/
def State.poke (s : State) (n : Nat) (v : Byte) : State :=
  if kindAt s.cfg.map n = .ram then s.setMem (s.mem.write n v) else s

/-- One write of a DMA master (20_memory.md R63). It reaches RAM only (log 14). -/
def State.dmaWrite (s : State) (w : DmaWrite) : State := s.poke (busAddr s.cfg.member w.addr) w.data

/-- What a DMA master does while it holds the processor in a read cycle (20_memory.md R61, R63). It holds it through
RDY, so on a member without the pin it does nothing (log 14). -/
def dmaCycle (s : State) : State :=
  match hasRdy s.cfg.member, s.env.dma with
  | true, ws :: later =>
    let s1 := ws.foldl State.dmaWrite s
    s1.setEnv { s1.env with dma := later }
  | _, _ => s

/-- The byte the platform puts on the data bus in a read cycle (20_memory.md R57). -/
def State.busByte (s : State) (addr : Word) : Byte :=
  match s.kindOf addr with
  | .ram => s.peek addr
  | .rom => s.peek addr
  | .device => s.env.deviceIn.headD (Config.freeByte s.env.free)
  | .unmapped => Config.freeByte s.env.free

/-- What a read takes from the environment: a device's next byte, or one free value (log 6, log 15). -/
def Env.afterRead (e : Env) : RegionKind → Env
  | .ram => e
  | .rom => e
  | .device =>
    match e.deviceIn with
    | [] => { e with free := e.free + 1 }
    | _ :: later => { e with deviceIn := later }
  | .unmapped => { e with free := e.free + 1 }

/-- Adds a bus cycle to the trace of the step. -/
def Env.record (e : Env) (c : BusCycle) : Env := { e with trace := e.trace ++ [c] }

/-- One read cycle (20_memory.md R54). `opcode` says that it is an OP CODE fetch (10_state.md R40). -/
def busRead (opcode : Bool) (addr : Word) (s : State) : Byte × State :=
  let s1 := dmaCycle s
  let b := s1.busByte addr
  (b, s1.setEnv ((s1.env.afterRead (s1.kindOf addr)).record
        { addr := busAddr s1.cfg.member addr, write := false, data := b,
          sync := opcode && hasSync s1.cfg.member }))

/-- `MemRead(addr, 1)` (00_scope.md R10). -/
def memRead (addr : Word) (s : State) : Byte × State := busRead false addr s

/-- A read cycle whose byte is not used (20_memory.md R58). -/
def discardRead (addr : Word) (s : State) : State := (memRead addr s).2

/-- `MemWrite(addr, 1, v)` (00_scope.md R10): one write cycle (20_memory.md R54). RDY does not stop it (10_state.md R37)
and DBE is high in it (20_memory.md R66). -/
def memWrite (addr : Word) (v : Byte) (s : State) : State :=
  let s1 := s.poke (busAddr s.cfg.member addr) v
  s1.setEnv (s1.env.record { addr := busAddr s.cfg.member addr, write := true, data := v, sync := false })

/-! ## Free values -/

/-- Uses up `k` free values (log 6). -/
def State.useFree (s : State) (k : Nat) : State := s.setEnv { s.env with free := s.env.free + k }

/-! ## The status register as a byte -/

/-- `PackP(b)` (00_scope.md R10): `N V 1 b D I Z C`, bit 7 first. -/
def packP (p : Flags) (b : Bool) : Byte :=
  BitVec.ofBool p.n ++ BitVec.ofBool p.v ++ 1#1 ++ BitVec.ofBool b ++
    BitVec.ofBool p.d ++ BitVec.ofBool p.i ++ BitVec.ofBool p.z ++ BitVec.ofBool p.c

/-- `UnpackP(v)` (00_scope.md R10): bits 5 and 4 are ignored. -/
def unpackP (v : Byte) : Flags :=
  { n := v.getLsbD 7, v := v.getLsbD 6, d := v.getLsbD 3, i := v.getLsbD 2, z := v.getLsbD 1, c := v.getLsbD 0 }

/-! ## The stack (10_state.md R23) -/

/-- The address `$0100 + S`: the stack never leaves page one (10_state.md R23). -/
def stackAddr (sp : Byte) : Word := 0x0100#16 + zext16 sp

/-- `push(v)` (00_scope.md R10). -/
def push (v : Byte) (s : State) : State := (memWrite (stackAddr s.sp) v s).setSp (s.sp - 1)

/-- `pull()` (00_scope.md R10). -/
def pull (s : State) : Byte × State :=
  let s1 := s.setSp (s.sp + 1)
  memRead (stackAddr s1.sp) s1

/-- The read of the stack top before S moves, whose byte is not used (20_memory.md R58 d). -/
def peekStack (s : State) : State := discardRead (stackAddr s.sp) s

/-! ## Taking a trap and returning from one -/

/-- `$FFFE`, the IRQ and BRK vector (20_memory.md R56). -/
def irqVector : Word := 0xFFFE#16

/-- `$FFFA`, the NMI vector (20_memory.md R56). -/
def nmiVector : Word := 0xFFFA#16

/-- `$FFFC`, the reset vector (20_memory.md R56). -/
def resetVector : Word := 0xFFFC#16

/-- Loads PC from a vector, the low byte from the lower address and first (20_memory.md R52, R55). -/
def loadVector (vec : Word) (s : State) : State :=
  let lo := memRead vec s
  let hi := memRead (vec + 1) lo.2
  hi.2.setPc (joinBytes hi.1 lo.1)

/-- The three pushes of a trap and the mask (60_exceptions.md R230): `ret` is the return address, `b` bit 4 of the
pushed P, which still holds the old I. -/
def stackTrap (b : Bool) (ret : Word) (s : State) : State :=
  let s1 := push (loByte ret) (push (hiByte ret) s)
  let s2 := push (packP s1.p b) s1
  s2.setP { s2.p with i := true }

/-- An NMI edge has come during the BRK or IRQ sequence in progress and takes over its vector (60_exceptions.md R232 b). -/
def nmiTakesOver (s : State) : Bool := hasNmi s.cfg.member && s.env.now.nmiDuring

/-- The edge that took over a sequence is used up: no separate NMI follows (60_exceptions.md R232 b). -/
def useUpNmi (s : State) : State :=
  (s.setNmiPending false).setEnv { s.env with now := { s.env.now with nmiDuring := false } }

/-- A trap through the IRQ vector: a BRK (`b` is true, `ret` the opcode's address + 2) or an IRQ sequence (`b` is
false, `ret` the next instruction) (60_exceptions.md R230, 45_stack_flag_system.md R212). An NMI edge during it may
take over the vector (60_exceptions.md R232). -/
def takeTrap (b : Bool) (ret : Word) (s : State) : State :=
  let s1 := stackTrap b ret s
  if nmiTakesOver s1 then loadVector nmiVector (useUpNmi s1) else loadVector irqVector s1

/-- The two reads at PC with which an IRQ, NMI or reset sequence starts (70_reset_and_hazards.md R274). -/
def sequenceStart (s : State) : State := discardRead s.pc (discardRead s.pc s)

/-- The IRQ sequence (60_exceptions.md R230). -/
def irqSequence (s : State) : State := (takeTrap false s.pc (sequenceStart s)).setOldI none

/-- The NMI sequence, which clears `nmi_pending` (60_exceptions.md R226, R230). -/
def nmiSequence (s : State) : State :=
  ((loadVector nmiVector (stackTrap false s.pc (sequenceStart s))).setNmiPending false).setOldI none

/-- The return from a trap (45_stack_flag_system.md R213): P, then PCL, then PCH, and nothing is added. -/
def returnFromTrap (s : State) : State :=
  let v := pull (peekStack s)
  let lo := pull (v.2.setP (unpackP v.1))
  let hi := pull lo.2
  hi.2.setPc (joinBytes hi.1 lo.1)

/-! ## Reset -/

/-- The processor held in reset: it executes nothing, writes nothing, and an NMI edge is dropped (10_state.md R34,
R38, 60_exceptions.md R238, 92_eei_decisions.md D5). That it makes no read cycle either is a DESIGN CHOICE: the spec
inhibits writing and leaves open whether reads go on (20_memory.md R54, log 29). -/
def holdInReset (s : State) : State := ((s.setInReset true).setNmiPending false).setOldI none

/-- A, X, Y, S and the six flags hold any value (93_implementation_defined.md U1, log 18). -/
def anyRegisters (s : State) : State :=
  let k := s.env.free
  ((((s.setA (Config.freeByte k)).setX (Config.freeByte (k + 1))).setY (Config.freeByte (k + 2))).setSp
    (Config.freeByte (k + 3))).setP
    { n := Config.freeBit k, v := Config.freeBit (k + 1), d := Config.freeBit (k + 2), i := Config.freeBit (k + 5),
      z := Config.freeBit (k + 3), c := Config.freeBit (k + 4) }
  |>.useFree 6

/-- The registers after a reset: I is 1, and the spec leaves A, X, Y, S and the other flags unspecified (10_state.md
R39). -/
def unspecifiedRegisters (s : State) : State :=
  let s1 := anyRegisters s
  s1.setP { s1.p with i := true }

/-- The reset sequence (70_reset_and_hazards.md R260, R274): no write, three reads of the stack, I set, PC from $FFFC
and $FFFD, and no NMI pending (10_state.md R34, R39). -/
def resetSequence (s : State) : State :=
  let s1 := sequenceStart s
  let s2 := discardRead (stackAddr (s.sp - 2)) (discardRead (stackAddr (s.sp - 1)) (discardRead (stackAddr s.sp) s1))
  (((unspecifiedRegisters (loadVector resetVector s2)).setNmiPending false).setInReset false).setOldI none

end Sys2Proof.Machine
end

