-- ==== Sys2Proof/Machine/Operands.lean ====
section
/-! DEFINITION. The thirteen addressing modes (40_addressing_modes.md). Implied (R100) and accumulator (R101) have no
operand in memory, immediate (R102) has its byte in the instruction, relative (R109) and absolute indirect (R112)
stand at the end of this file. The eight modes that name a byte of memory are `MemOperand`.
Each makes the bus cycles of 70_reset_and_hazards.md R274, the discarded reads of 20_memory.md R58 among them. -/

namespace Sys2Proof.Machine

/-- An operand in memory, with the operand bytes of the instruction. -/
inductive MemOperand where
  /-- Zero page (R103). -/
  | zp (b1 : Byte)
  /-- Zero page,X (R104). -/
  | zpX (b1 : Byte)
  /-- Zero page,Y (R105). -/
  | zpY (b1 : Byte)
  /-- Absolute (R106). -/
  | abs (addr : Word)
  /-- Absolute,X (R107). -/
  | absX (addr : Word)
  /-- Absolute,Y (R108). -/
  | absY (addr : Word)
  /-- Indexed indirect, (zero page,X) (R110). -/
  | indX (b1 : Byte)
  /-- Indirect indexed, (zero page),Y (R111). -/
  | indY (b1 : Byte)
deriving DecidableEq, Repr

/-- What the instruction does at its operand: a load reads it, a store or a read-modify-write writes it. Only the
discarded reads depend on it (20_memory.md R58 a). -/
inductive Access where
  | load
  | modify
deriving DecidableEq, Repr

/-- The address before the carry of the index addition is added in: the right low byte, the base's high byte
(20_memory.md R58 a). -/
def uncarried (base : Word) (index : Byte) : Word := joinBytes (hiByte base) (loByte base + index)

/-- The index addition carries out of the low byte, a page crossing (40_addressing_modes.md R107). -/
def crossesPage (base : Word) (index : Byte) : Bool := decide (256 ≤ (loByte base).toNat + index.toNat)

/-- Base plus index with the 16-bit wrap (40_addressing_modes.md R107, R108, R111). A load makes the discarded read
only when the page is crossed, a store or read-modify-write always (70_reset_and_hazards.md R274). -/
def indexedAddr (acc : Access) (base : Word) (index : Byte) (s : State) : Word × State :=
  match acc with
  | .load => (base + zext16 index, if crossesPage base index then discardRead (uncarried base index) s else s)
  | .modify => (base + zext16 index, discardRead (uncarried base index) s)

/-- The two bytes of a pointer in page zero, low byte first; the second address wraps within page zero
(40_addressing_modes.md R110, R111). -/
def zeroPagePointer (p : Byte) (s : State) : Word × State :=
  let lo := memRead (zext16 p) s
  let hi := memRead (zext16 (p + 1)) lo.2
  (joinBytes hi.1 lo.1, hi.2)

/-- The effective address EA of an operand (40_addressing_modes.md R103 to R111) and the state after the cycles that
find it. No mode changes a register or a flag. -/
def effectiveAddr (acc : Access) (m : MemOperand) (s : State) : Word × State :=
  match m with
  | .zp b1 => (zext16 b1, s)
  | .zpX b1 => (zext16 (b1 + s.x), discardRead (zext16 b1) s)
  | .zpY b1 => (zext16 (b1 + s.y), discardRead (zext16 b1) s)
  | .abs addr => (addr, s)
  | .absX addr => indexedAddr acc addr s.x s
  | .absY addr => indexedAddr acc addr s.y s
  | .indX b1 => zeroPagePointer (b1 + s.x) (discardRead (zext16 b1) s)
  | .indY b1 =>
    let base := zeroPagePointer b1 s
    indexedAddr acc base.1 s.y base.2

/-- The operand M of an instruction that reads memory: the byte at EA, and the state after the cycles. -/
def readOperand (m : MemOperand) (s : State) : Byte × State :=
  let ea := effectiveAddr .load m s
  memRead ea.1 ea.2

/-- A store: `MemWrite(EA, 1, v)`. The byte at EA is not read for its value. -/
def storeOperand (m : MemOperand) (v : Byte) (s : State) : State :=
  let ea := effectiveAddr .modify m s
  memWrite ea.1 v ea.2

/-- A read-modify-write instruction: read M, write M back unchanged, write the result (20_memory.md R58 c, R61). `f`
gives the result and the flags. -/
def modifyOperand (m : MemOperand) (f : Byte → Flags → Byte × Flags) (s : State) : State :=
  let ea := effectiveAddr .modify m s
  let old := memRead ea.1 ea.2
  let new := f old.1 s.p
  (memWrite ea.1 new.1 (memWrite ea.1 old.1 old.2)).setP new.2

/-- The pointer of JMP (indirect): its second byte comes from the same page (40_addressing_modes.md R112). -/
def jumpPointer (ptr : Word) (s : State) : Word × State :=
  let lo := memRead ptr s
  let hi := memRead (uncarried ptr 1) lo.2
  (joinBytes hi.1 lo.1, hi.2)

/-- The target of a branch, PC being past the branch already (40_addressing_modes.md R109). -/
def branchTarget (rel : Byte) (pc : Word) : Word := pc + sext16 rel

/-- A conditional branch (44_control_transfer.md R191) with the discarded reads of a taken one
(70_reset_and_hazards.md R274): at the next instruction, and if the target is in another page at the target's low byte
in the next instruction's page. -/
def branch (cond : Bool) (rel : Byte) (s : State) : State :=
  let target := branchTarget rel s.pc
  if cond then
    let s1 := discardRead s.pc s
    let s2 := if hiByte target = hiByte s.pc then s1
      else discardRead (joinBytes (hiByte s.pc) (loByte target)) s1
    s2.setPc target
  else s

end Sys2Proof.Machine
end

