-- ==== Sys2Proof/Machine/Flags.lean ====
section
/-! DEFINITION. The flag computations and results of the arithmetic, logic and shift instructions (42_arithmetic.md,
43_logic_shift.md), and what an instruction does with its operand once that is read. Arithmetic is done on numbers
and narrowed at the end. -/

namespace Sys2Proof.Machine

/-- `SetNZ(v)` (00_scope.md R10). -/
def Flags.setNZ (p : Flags) (v : Byte) : Flags := { p with n := v.getLsbD 7, z := v == 0#8 }

/-! ## Binary addition, subtraction, comparison -/

/-- ADC with P.D = 0 (42_arithmetic.md R140). -/
def addBinary (a m : Byte) (p : Flags) : Byte × Flags :=
  let t := a.toNat + m.toNat + p.c.toNat
  let r := BitVec.ofNat 8 t
  (r, { p with n := r.getLsbD 7, v := ((a ^^^ r) &&& (m ^^^ r)).getLsbD 7, z := r == 0#8, c := decide (256 ≤ t) })

/-- SBC with P.D = 0 (42_arithmetic.md R141): the addition of the complement. -/
def subBinary (a m : Byte) (p : Flags) : Byte × Flags := addBinary a (m ^^^ 0xFF#8) p

/-- CMP, CPX, CPY (42_arithmetic.md R142): the difference's flags, whatever C and D are. V is left alone. -/
def compareFlags (reg m : Byte) (p : Flags) : Flags :=
  let t := reg.toNat + (m ^^^ 0xFF#8).toNat + 1
  let r := BitVec.ofNat 8 t
  { p with n := r.getLsbD 7, z := r == 0#8, c := decide (256 ≤ t) }

/-! ## Decimal mode (42_arithmetic.md R153) -/

/-- `valid(v)`: both digits are at most 9. -/
def validBcd (v : Byte) : Bool := decide (v.toNat / 16 ≤ 9 ∧ v.toNat % 16 ≤ 9)

/-- `dec(v)`, 0 to 99 for a valid byte. -/
def bcdValue (v : Byte) : Nat := 10 * (v.toNat / 16) + v.toNat % 16

/-- `bcd(n)`: the byte with `dec(bcd(n)) = n`, for n up to 99. -/
def bcdByte (n : Nat) : Byte := BitVec.ofNat 8 (n / 10 * 16 + n % 10)

/-- N, V and Z after a decimal ADC or SBC: free (42_arithmetic.md R153, 93_implementation_defined.md U2, log 6). -/
def Flags.decimalNVZ (p : Flags) (k : Nat) : Flags :=
  { p with n := Config.freeBit k, v := Config.freeBit (k + 1), z := Config.freeBit (k + 2) }

/-- How many free values one decimal ADC or SBC uses up. -/
def decimalFreeValues : Nat := 4

/-- A decimal result when A or M is not valid BCD: A, C, N, V and Z are free (93_implementation_defined.md U3, log 6). -/
def invalidBcdResult (p : Flags) (k : Nat) : Byte × Flags :=
  (Config.freeByte k, { p.decimalNVZ k with c := Config.freeBit (k + 3) })

/-- ADC with P.D = 1 (42_arithmetic.md R153). `k` numbers the free values. -/
def addDecimal (a m : Byte) (p : Flags) (k : Nat) : Byte × Flags :=
  if validBcd a && validBcd m then
    let t := bcdValue a + bcdValue m + p.c.toNat
    (bcdByte (t % 100), { p.decimalNVZ k with c := decide (100 ≤ t) })
  else invalidBcdResult p k

/-- SBC with P.D = 1 (42_arithmetic.md R153): `d = dec(A) - dec(M) - (1 - C)`, an integer. -/
def subDecimal (a m : Byte) (p : Flags) (k : Nat) : Byte × Flags :=
  if validBcd a && validBcd m then
    let d : Int := (bcdValue a : Int) - (bcdValue m : Int) - (1 - (p.c.toNat : Int))
    (bcdByte (d % 100).toNat, { p.decimalNVZ k with c := decide (0 ≤ d) })
  else invalidBcdResult p k

/-! ## Shifts and rotates (43_logic_shift.md), increment and decrement -/

/-- ASL (43_logic_shift.md R164). -/
def shiftLeft (v : Byte) (p : Flags) : Byte × Flags :=
  let r := v <<< 1
  (r, { p.setNZ r with c := v.getLsbD 7 })

/-- LSR (43_logic_shift.md R165). -/
def shiftRight (v : Byte) (p : Flags) : Byte × Flags :=
  let r := v >>> 1
  (r, { p.setNZ r with c := v.getLsbD 0 })

/-- ROL (43_logic_shift.md R166): the old C comes in at bit 0. -/
def rotateLeft (v : Byte) (p : Flags) : Byte × Flags :=
  let r : Byte := v.extractLsb' 0 7 ++ BitVec.ofBool p.c
  (r, { p.setNZ r with c := v.getLsbD 7 })

/-- ROR (43_logic_shift.md R167): the old C comes in at bit 7. -/
def rotateRight (v : Byte) (p : Flags) : Byte × Flags :=
  let r : Byte := BitVec.ofBool p.c ++ v.extractLsb' 1 7
  (r, { p.setNZ r with c := v.getLsbD 0 })

/-- INC (42_arithmetic.md R145): C and V are left alone. -/
def increment (v : Byte) (p : Flags) : Byte × Flags := (v + 1, p.setNZ (v + 1))

/-- DEC (42_arithmetic.md R148): C and V are left alone. -/
def decrement (v : Byte) (p : Flags) : Byte × Flags := (v - 1, p.setNZ (v - 1))

/-! ## What an instruction does with its operand

Each takes the operand and the state after the operand's cycles, as `readOperand` answers them. -/

/-- `A <- v; SetNZ(v)`. -/
def State.loadA (s : State) (v : Byte) : State := (s.setA v).setP (s.p.setNZ v)

/-- `X <- v; SetNZ(v)`. -/
def State.loadX (s : State) (v : Byte) : State := (s.setX v).setP (s.p.setNZ v)

/-- `Y <- v; SetNZ(v)`. -/
def State.loadY (s : State) (v : Byte) : State := (s.setY v).setP (s.p.setNZ v)

/-- LDA (41_load_store_transfer.md R120). -/
def loadIntoA (r : Byte × State) : State := r.2.loadA r.1

/-- LDX (41_load_store_transfer.md R121). -/
def loadIntoX (r : Byte × State) : State := r.2.loadX r.1

/-- LDY (41_load_store_transfer.md R122). -/
def loadIntoY (r : Byte × State) : State := r.2.loadY r.1

/-- Writes A and P together. -/
def State.setAP (s : State) (r : Byte × Flags) : State := (s.setA r.1).setP r.2

/-- ADC (42_arithmetic.md R140, R153): P.D chooses the mode. -/
def addToA (r : Byte × State) : State :=
  let s := r.2
  if s.p.d then (s.setAP (addDecimal s.a r.1 s.p s.env.free)).useFree decimalFreeValues
  else s.setAP (addBinary s.a r.1 s.p)

/-- SBC (42_arithmetic.md R141, R153): P.D chooses the mode. -/
def subFromA (r : Byte × State) : State :=
  let s := r.2
  if s.p.d then (s.setAP (subDecimal s.a r.1 s.p s.env.free)).useFree decimalFreeValues
  else s.setAP (subBinary s.a r.1 s.p)

/-- CMP (42_arithmetic.md R142). -/
def compareWithA (r : Byte × State) : State := r.2.setP (compareFlags r.2.a r.1 r.2.p)

/-- CPX (42_arithmetic.md R143). -/
def compareWithX (r : Byte × State) : State := r.2.setP (compareFlags r.2.x r.1 r.2.p)

/-- CPY (42_arithmetic.md R144). -/
def compareWithY (r : Byte × State) : State := r.2.setP (compareFlags r.2.y r.1 r.2.p)

/-- AND (43_logic_shift.md R160). -/
def andIntoA (r : Byte × State) : State := r.2.loadA (r.2.a &&& r.1)

/-- ORA (43_logic_shift.md R161). -/
def orIntoA (r : Byte × State) : State := r.2.loadA (r.2.a ||| r.1)

/-- EOR (43_logic_shift.md R162). -/
def xorIntoA (r : Byte × State) : State := r.2.loadA (r.2.a ^^^ r.1)

/-- BIT (43_logic_shift.md R163): Z from the AND, N and V from the memory byte. -/
def testBits (r : Byte × State) : State :=
  r.2.setP { r.2.p with z := (r.2.a &&& r.1) == 0#8, n := r.1.getLsbD 7, v := r.1.getLsbD 6 }

/-- The accumulator form of a shift or rotate (40_addressing_modes.md R101). -/
def modifyA (f : Byte → Flags → Byte × Flags) (s : State) : State := s.setAP (f s.a s.p)

end Sys2Proof.Machine
end

