-- ==== Sys2Proof/Machine/Arithmetic.lean ====
section
/-! DEFINITION. The meanings of the arithmetic, compare, increment and decrement instructions (42_arithmetic.md). PC has been
advanced past the instruction before a meaning runs (00_scope.md R11). Every one answers a next state: none of these
instructions can raise an exception (60_exceptions.md R221), and BRK's trap is its effect. -/

namespace Sys2Proof.Machine

/-- ADC (zp,X) (42_arithmetic.md R140, 40_addressing_modes.md R110). -/
def execAdcIndX (zp : Byte) (s : State) : Host.Outcome State Fault Refusal :=
  .next (addToA (readOperand (.indX zp) s))

/-- ADC zp (42_arithmetic.md R140, 40_addressing_modes.md R103). -/
def execAdcZp (zp : Byte) (s : State) : Host.Outcome State Fault Refusal :=
  .next (addToA (readOperand (.zp zp) s))

/-- ADC #imm (42_arithmetic.md R140, 40_addressing_modes.md R102). -/
def execAdcImm (imm : Byte) (s : State) : Host.Outcome State Fault Refusal :=
  .next (addToA (imm, s))

/-- ADC addr (42_arithmetic.md R140, 40_addressing_modes.md R106). -/
def execAdcAbs (addr : Word) (s : State) : Host.Outcome State Fault Refusal :=
  .next (addToA (readOperand (.abs addr) s))

/-- ADC (zp),Y (42_arithmetic.md R140, 40_addressing_modes.md R111). -/
def execAdcIndY (zp : Byte) (s : State) : Host.Outcome State Fault Refusal :=
  .next (addToA (readOperand (.indY zp) s))

/-- ADC zp,X (42_arithmetic.md R140, 40_addressing_modes.md R104). -/
def execAdcZpX (zp : Byte) (s : State) : Host.Outcome State Fault Refusal :=
  .next (addToA (readOperand (.zpX zp) s))

/-- ADC addr,Y (42_arithmetic.md R140, 40_addressing_modes.md R108). -/
def execAdcAbsY (addr : Word) (s : State) : Host.Outcome State Fault Refusal :=
  .next (addToA (readOperand (.absY addr) s))

/-- ADC addr,X (42_arithmetic.md R140, 40_addressing_modes.md R107). -/
def execAdcAbsX (addr : Word) (s : State) : Host.Outcome State Fault Refusal :=
  .next (addToA (readOperand (.absX addr) s))

/-- SBC (zp,X) (42_arithmetic.md R141, 40_addressing_modes.md R110). -/
def execSbcIndX (zp : Byte) (s : State) : Host.Outcome State Fault Refusal :=
  .next (subFromA (readOperand (.indX zp) s))

/-- SBC zp (42_arithmetic.md R141, 40_addressing_modes.md R103). -/
def execSbcZp (zp : Byte) (s : State) : Host.Outcome State Fault Refusal :=
  .next (subFromA (readOperand (.zp zp) s))

/-- SBC #imm (42_arithmetic.md R141, 40_addressing_modes.md R102). -/
def execSbcImm (imm : Byte) (s : State) : Host.Outcome State Fault Refusal :=
  .next (subFromA (imm, s))

/-- SBC addr (42_arithmetic.md R141, 40_addressing_modes.md R106). -/
def execSbcAbs (addr : Word) (s : State) : Host.Outcome State Fault Refusal :=
  .next (subFromA (readOperand (.abs addr) s))

/-- SBC (zp),Y (42_arithmetic.md R141, 40_addressing_modes.md R111). -/
def execSbcIndY (zp : Byte) (s : State) : Host.Outcome State Fault Refusal :=
  .next (subFromA (readOperand (.indY zp) s))

/-- SBC zp,X (42_arithmetic.md R141, 40_addressing_modes.md R104). -/
def execSbcZpX (zp : Byte) (s : State) : Host.Outcome State Fault Refusal :=
  .next (subFromA (readOperand (.zpX zp) s))

/-- SBC addr,Y (42_arithmetic.md R141, 40_addressing_modes.md R108). -/
def execSbcAbsY (addr : Word) (s : State) : Host.Outcome State Fault Refusal :=
  .next (subFromA (readOperand (.absY addr) s))

/-- SBC addr,X (42_arithmetic.md R141, 40_addressing_modes.md R107). -/
def execSbcAbsX (addr : Word) (s : State) : Host.Outcome State Fault Refusal :=
  .next (subFromA (readOperand (.absX addr) s))

/-- CMP (zp,X) (42_arithmetic.md R142, 40_addressing_modes.md R110). -/
def execCmpIndX (zp : Byte) (s : State) : Host.Outcome State Fault Refusal :=
  .next (compareWithA (readOperand (.indX zp) s))

/-- CMP zp (42_arithmetic.md R142, 40_addressing_modes.md R103). -/
def execCmpZp (zp : Byte) (s : State) : Host.Outcome State Fault Refusal :=
  .next (compareWithA (readOperand (.zp zp) s))

/-- CMP #imm (42_arithmetic.md R142, 40_addressing_modes.md R102). -/
def execCmpImm (imm : Byte) (s : State) : Host.Outcome State Fault Refusal :=
  .next (compareWithA (imm, s))

/-- CMP addr (42_arithmetic.md R142, 40_addressing_modes.md R106). -/
def execCmpAbs (addr : Word) (s : State) : Host.Outcome State Fault Refusal :=
  .next (compareWithA (readOperand (.abs addr) s))

/-- CMP (zp),Y (42_arithmetic.md R142, 40_addressing_modes.md R111). -/
def execCmpIndY (zp : Byte) (s : State) : Host.Outcome State Fault Refusal :=
  .next (compareWithA (readOperand (.indY zp) s))

/-- CMP zp,X (42_arithmetic.md R142, 40_addressing_modes.md R104). -/
def execCmpZpX (zp : Byte) (s : State) : Host.Outcome State Fault Refusal :=
  .next (compareWithA (readOperand (.zpX zp) s))

/-- CMP addr,Y (42_arithmetic.md R142, 40_addressing_modes.md R108). -/
def execCmpAbsY (addr : Word) (s : State) : Host.Outcome State Fault Refusal :=
  .next (compareWithA (readOperand (.absY addr) s))

/-- CMP addr,X (42_arithmetic.md R142, 40_addressing_modes.md R107). -/
def execCmpAbsX (addr : Word) (s : State) : Host.Outcome State Fault Refusal :=
  .next (compareWithA (readOperand (.absX addr) s))

/-- CPX #imm (42_arithmetic.md R143, 40_addressing_modes.md R102). -/
def execCpxImm (imm : Byte) (s : State) : Host.Outcome State Fault Refusal :=
  .next (compareWithX (imm, s))

/-- CPX zp (42_arithmetic.md R143, 40_addressing_modes.md R103). -/
def execCpxZp (zp : Byte) (s : State) : Host.Outcome State Fault Refusal :=
  .next (compareWithX (readOperand (.zp zp) s))

/-- CPX addr (42_arithmetic.md R143, 40_addressing_modes.md R106). -/
def execCpxAbs (addr : Word) (s : State) : Host.Outcome State Fault Refusal :=
  .next (compareWithX (readOperand (.abs addr) s))

/-- CPY #imm (42_arithmetic.md R144, 40_addressing_modes.md R102). -/
def execCpyImm (imm : Byte) (s : State) : Host.Outcome State Fault Refusal :=
  .next (compareWithY (imm, s))

/-- CPY zp (42_arithmetic.md R144, 40_addressing_modes.md R103). -/
def execCpyZp (zp : Byte) (s : State) : Host.Outcome State Fault Refusal :=
  .next (compareWithY (readOperand (.zp zp) s))

/-- CPY addr (42_arithmetic.md R144, 40_addressing_modes.md R106). -/
def execCpyAbs (addr : Word) (s : State) : Host.Outcome State Fault Refusal :=
  .next (compareWithY (readOperand (.abs addr) s))

/-- INC zp (42_arithmetic.md R145, 40_addressing_modes.md R103). -/
def execIncZp (zp : Byte) (s : State) : Host.Outcome State Fault Refusal :=
  .next (modifyOperand (.zp zp) increment s)

/-- INC addr (42_arithmetic.md R145, 40_addressing_modes.md R106). -/
def execIncAbs (addr : Word) (s : State) : Host.Outcome State Fault Refusal :=
  .next (modifyOperand (.abs addr) increment s)

/-- INC zp,X (42_arithmetic.md R145, 40_addressing_modes.md R104). -/
def execIncZpX (zp : Byte) (s : State) : Host.Outcome State Fault Refusal :=
  .next (modifyOperand (.zpX zp) increment s)

/-- INC addr,X (42_arithmetic.md R145, 40_addressing_modes.md R107). -/
def execIncAbsX (addr : Word) (s : State) : Host.Outcome State Fault Refusal :=
  .next (modifyOperand (.absX addr) increment s)

/-- INX (42_arithmetic.md R146, 40_addressing_modes.md R100). -/
def execInx (s : State) : Host.Outcome State Fault Refusal :=
  .next (s.loadX (s.x + 1))

/-- INY (42_arithmetic.md R147, 40_addressing_modes.md R100). -/
def execIny (s : State) : Host.Outcome State Fault Refusal :=
  .next (s.loadY (s.y + 1))

/-- DEC zp (42_arithmetic.md R148, 40_addressing_modes.md R103). -/
def execDecZp (zp : Byte) (s : State) : Host.Outcome State Fault Refusal :=
  .next (modifyOperand (.zp zp) decrement s)

/-- DEC addr (42_arithmetic.md R148, 40_addressing_modes.md R106). -/
def execDecAbs (addr : Word) (s : State) : Host.Outcome State Fault Refusal :=
  .next (modifyOperand (.abs addr) decrement s)

/-- DEC zp,X (42_arithmetic.md R148, 40_addressing_modes.md R104). -/
def execDecZpX (zp : Byte) (s : State) : Host.Outcome State Fault Refusal :=
  .next (modifyOperand (.zpX zp) decrement s)

/-- DEC addr,X (42_arithmetic.md R148, 40_addressing_modes.md R107). -/
def execDecAbsX (addr : Word) (s : State) : Host.Outcome State Fault Refusal :=
  .next (modifyOperand (.absX addr) decrement s)

/-- DEX (42_arithmetic.md R149, 40_addressing_modes.md R100). -/
def execDex (s : State) : Host.Outcome State Fault Refusal :=
  .next (s.loadX (s.x - 1))

/-- DEY (42_arithmetic.md R150, 40_addressing_modes.md R100). -/
def execDey (s : State) : Host.Outcome State Fault Refusal :=
  .next (s.loadY (s.y - 1))

end Sys2Proof.Machine
end

