-- ==== Sys2Proof/Machine/Control.lean ====
section
/-! DEFINITION. The meanings of the branch, jump and subroutine instructions (44_control_transfer.md). PC has been
advanced past the instruction before a meaning runs (00_scope.md R11). Every one answers a next state: none of these
instructions can raise an exception (60_exceptions.md R221), and BRK's trap is its effect. -/

namespace Sys2Proof.Machine

/-- JSR (44_control_transfer.md R189), PC being past all three bytes: `lo` is the operand's low byte. The pushed value
is the address of the instruction's last byte, and the target's high byte is read there AFTER the pushes. -/
def callSubroutine (lo : Byte) (s : State) : State :=
  let ret := s.pc - 1
  let hi := memRead ret (push (loByte ret) (push (hiByte ret) (peekStack s)))
  hi.2.setPc (joinBytes hi.1 lo)

/-- RTS (44_control_transfer.md R190), with the discarded read at the pulled address (70_reset_and_hazards.md R274). -/
def returnFromSubroutine (s : State) : State :=
  let lo := pull (peekStack s)
  let hi := pull lo.2
  let ret := joinBytes hi.1 lo.1
  (discardRead ret hi.2).setPc (ret + 1)

/-- JMP (indirect) (44_control_transfer.md R188, 40_addressing_modes.md R112). -/
def jumpIndirect (ptr : Word) (s : State) : State :=
  let target := jumpPointer ptr s
  target.2.setPc target.1

/-- BCC rel (44_control_transfer.md R180, 40_addressing_modes.md R109). -/
def execBcc (rel : Byte) (s : State) : Host.Outcome State Fault Refusal :=
  .next (branch (!s.p.c) rel s)

/-- BCS rel (44_control_transfer.md R181, 40_addressing_modes.md R109). -/
def execBcs (rel : Byte) (s : State) : Host.Outcome State Fault Refusal :=
  .next (branch s.p.c rel s)

/-- BEQ rel (44_control_transfer.md R182, 40_addressing_modes.md R109). -/
def execBeq (rel : Byte) (s : State) : Host.Outcome State Fault Refusal :=
  .next (branch s.p.z rel s)

/-- BNE rel (44_control_transfer.md R183, 40_addressing_modes.md R109). -/
def execBne (rel : Byte) (s : State) : Host.Outcome State Fault Refusal :=
  .next (branch (!s.p.z) rel s)

/-- BMI rel (44_control_transfer.md R184, 40_addressing_modes.md R109). -/
def execBmi (rel : Byte) (s : State) : Host.Outcome State Fault Refusal :=
  .next (branch s.p.n rel s)

/-- BPL rel (44_control_transfer.md R185, 40_addressing_modes.md R109). -/
def execBpl (rel : Byte) (s : State) : Host.Outcome State Fault Refusal :=
  .next (branch (!s.p.n) rel s)

/-- BVC rel (44_control_transfer.md R186, 40_addressing_modes.md R109). -/
def execBvc (rel : Byte) (s : State) : Host.Outcome State Fault Refusal :=
  .next (branch (!s.p.v) rel s)

/-- BVS rel (44_control_transfer.md R187, 40_addressing_modes.md R109). -/
def execBvs (rel : Byte) (s : State) : Host.Outcome State Fault Refusal :=
  .next (branch s.p.v rel s)

/-- JMP addr (44_control_transfer.md R188, 40_addressing_modes.md R106). -/
def execJmpAbs (addr : Word) (s : State) : Host.Outcome State Fault Refusal :=
  .next (s.setPc addr)

/-- JMP (addr) (44_control_transfer.md R188, 40_addressing_modes.md R112). -/
def execJmpInd (addr : Word) (s : State) : Host.Outcome State Fault Refusal :=
  .next (jumpIndirect addr s)

/-- JSR addr (44_control_transfer.md R189, 40_addressing_modes.md R106). The high byte of the operand is read again, after the pushes. -/
def execJsr (addr : Word) (s : State) : Host.Outcome State Fault Refusal :=
  .next (callSubroutine (loByte addr) s)

/-- RTS (44_control_transfer.md R190, 40_addressing_modes.md R100). -/
def execRts (s : State) : Host.Outcome State Fault Refusal :=
  .next (returnFromSubroutine s)

end Sys2Proof.Machine
end

