-- ==== Sys2Proof/Machine/LoadStore.lean ====
section
/-! DEFINITION. The meanings of the load, store and register transfer instructions (41_load_store_transfer.md). PC has been
advanced past the instruction before a meaning runs (00_scope.md R11). Every one answers a next state: none of these
instructions can raise an exception (60_exceptions.md R221), and BRK's trap is its effect. -/

namespace Sys2Proof.Machine

/-- LDA (zp,X) (41_load_store_transfer.md R120, 40_addressing_modes.md R110). -/
def execLdaIndX (zp : Byte) (s : State) : Host.Outcome State Fault Refusal :=
  .next (loadIntoA (readOperand (.indX zp) s))

/-- LDA zp (41_load_store_transfer.md R120, 40_addressing_modes.md R103). -/
def execLdaZp (zp : Byte) (s : State) : Host.Outcome State Fault Refusal :=
  .next (loadIntoA (readOperand (.zp zp) s))

/-- LDA #imm (41_load_store_transfer.md R120, 40_addressing_modes.md R102). -/
def execLdaImm (imm : Byte) (s : State) : Host.Outcome State Fault Refusal :=
  .next (loadIntoA (imm, s))

/-- LDA addr (41_load_store_transfer.md R120, 40_addressing_modes.md R106). -/
def execLdaAbs (addr : Word) (s : State) : Host.Outcome State Fault Refusal :=
  .next (loadIntoA (readOperand (.abs addr) s))

/-- LDA (zp),Y (41_load_store_transfer.md R120, 40_addressing_modes.md R111). -/
def execLdaIndY (zp : Byte) (s : State) : Host.Outcome State Fault Refusal :=
  .next (loadIntoA (readOperand (.indY zp) s))

/-- LDA zp,X (41_load_store_transfer.md R120, 40_addressing_modes.md R104). -/
def execLdaZpX (zp : Byte) (s : State) : Host.Outcome State Fault Refusal :=
  .next (loadIntoA (readOperand (.zpX zp) s))

/-- LDA addr,Y (41_load_store_transfer.md R120, 40_addressing_modes.md R108). -/
def execLdaAbsY (addr : Word) (s : State) : Host.Outcome State Fault Refusal :=
  .next (loadIntoA (readOperand (.absY addr) s))

/-- LDA addr,X (41_load_store_transfer.md R120, 40_addressing_modes.md R107). -/
def execLdaAbsX (addr : Word) (s : State) : Host.Outcome State Fault Refusal :=
  .next (loadIntoA (readOperand (.absX addr) s))

/-- LDX #imm (41_load_store_transfer.md R121, 40_addressing_modes.md R102). -/
def execLdxImm (imm : Byte) (s : State) : Host.Outcome State Fault Refusal :=
  .next (loadIntoX (imm, s))

/-- LDX zp (41_load_store_transfer.md R121, 40_addressing_modes.md R103). -/
def execLdxZp (zp : Byte) (s : State) : Host.Outcome State Fault Refusal :=
  .next (loadIntoX (readOperand (.zp zp) s))

/-- LDX addr (41_load_store_transfer.md R121, 40_addressing_modes.md R106). -/
def execLdxAbs (addr : Word) (s : State) : Host.Outcome State Fault Refusal :=
  .next (loadIntoX (readOperand (.abs addr) s))

/-- LDX zp,Y (41_load_store_transfer.md R121, 40_addressing_modes.md R105). -/
def execLdxZpY (zp : Byte) (s : State) : Host.Outcome State Fault Refusal :=
  .next (loadIntoX (readOperand (.zpY zp) s))

/-- LDX addr,Y (41_load_store_transfer.md R121, 40_addressing_modes.md R108). -/
def execLdxAbsY (addr : Word) (s : State) : Host.Outcome State Fault Refusal :=
  .next (loadIntoX (readOperand (.absY addr) s))

/-- LDY #imm (41_load_store_transfer.md R122, 40_addressing_modes.md R102). -/
def execLdyImm (imm : Byte) (s : State) : Host.Outcome State Fault Refusal :=
  .next (loadIntoY (imm, s))

/-- LDY zp (41_load_store_transfer.md R122, 40_addressing_modes.md R103). -/
def execLdyZp (zp : Byte) (s : State) : Host.Outcome State Fault Refusal :=
  .next (loadIntoY (readOperand (.zp zp) s))

/-- LDY addr (41_load_store_transfer.md R122, 40_addressing_modes.md R106). -/
def execLdyAbs (addr : Word) (s : State) : Host.Outcome State Fault Refusal :=
  .next (loadIntoY (readOperand (.abs addr) s))

/-- LDY zp,X (41_load_store_transfer.md R122, 40_addressing_modes.md R104). -/
def execLdyZpX (zp : Byte) (s : State) : Host.Outcome State Fault Refusal :=
  .next (loadIntoY (readOperand (.zpX zp) s))

/-- LDY addr,X (41_load_store_transfer.md R122, 40_addressing_modes.md R107). -/
def execLdyAbsX (addr : Word) (s : State) : Host.Outcome State Fault Refusal :=
  .next (loadIntoY (readOperand (.absX addr) s))

/-- STA (zp,X) (41_load_store_transfer.md R123, 40_addressing_modes.md R110). -/
def execStaIndX (zp : Byte) (s : State) : Host.Outcome State Fault Refusal :=
  .next (storeOperand (.indX zp) s.a s)

/-- STA zp (41_load_store_transfer.md R123, 40_addressing_modes.md R103). -/
def execStaZp (zp : Byte) (s : State) : Host.Outcome State Fault Refusal :=
  .next (storeOperand (.zp zp) s.a s)

/-- STA addr (41_load_store_transfer.md R123, 40_addressing_modes.md R106). -/
def execStaAbs (addr : Word) (s : State) : Host.Outcome State Fault Refusal :=
  .next (storeOperand (.abs addr) s.a s)

/-- STA (zp),Y (41_load_store_transfer.md R123, 40_addressing_modes.md R111). -/
def execStaIndY (zp : Byte) (s : State) : Host.Outcome State Fault Refusal :=
  .next (storeOperand (.indY zp) s.a s)

/-- STA zp,X (41_load_store_transfer.md R123, 40_addressing_modes.md R104). -/
def execStaZpX (zp : Byte) (s : State) : Host.Outcome State Fault Refusal :=
  .next (storeOperand (.zpX zp) s.a s)

/-- STA addr,Y (41_load_store_transfer.md R123, 40_addressing_modes.md R108). -/
def execStaAbsY (addr : Word) (s : State) : Host.Outcome State Fault Refusal :=
  .next (storeOperand (.absY addr) s.a s)

/-- STA addr,X (41_load_store_transfer.md R123, 40_addressing_modes.md R107). -/
def execStaAbsX (addr : Word) (s : State) : Host.Outcome State Fault Refusal :=
  .next (storeOperand (.absX addr) s.a s)

/-- STX zp (41_load_store_transfer.md R124, 40_addressing_modes.md R103). -/
def execStxZp (zp : Byte) (s : State) : Host.Outcome State Fault Refusal :=
  .next (storeOperand (.zp zp) s.x s)

/-- STX addr (41_load_store_transfer.md R124, 40_addressing_modes.md R106). -/
def execStxAbs (addr : Word) (s : State) : Host.Outcome State Fault Refusal :=
  .next (storeOperand (.abs addr) s.x s)

/-- STX zp,Y (41_load_store_transfer.md R124, 40_addressing_modes.md R105). -/
def execStxZpY (zp : Byte) (s : State) : Host.Outcome State Fault Refusal :=
  .next (storeOperand (.zpY zp) s.x s)

/-- STY zp (41_load_store_transfer.md R125, 40_addressing_modes.md R103). -/
def execStyZp (zp : Byte) (s : State) : Host.Outcome State Fault Refusal :=
  .next (storeOperand (.zp zp) s.y s)

/-- STY addr (41_load_store_transfer.md R125, 40_addressing_modes.md R106). -/
def execStyAbs (addr : Word) (s : State) : Host.Outcome State Fault Refusal :=
  .next (storeOperand (.abs addr) s.y s)

/-- STY zp,X (41_load_store_transfer.md R125, 40_addressing_modes.md R104). -/
def execStyZpX (zp : Byte) (s : State) : Host.Outcome State Fault Refusal :=
  .next (storeOperand (.zpX zp) s.y s)

/-- TAX (41_load_store_transfer.md R126, 40_addressing_modes.md R100). -/
def execTax (s : State) : Host.Outcome State Fault Refusal :=
  .next (s.loadX s.a)

/-- TAY (41_load_store_transfer.md R127, 40_addressing_modes.md R100). -/
def execTay (s : State) : Host.Outcome State Fault Refusal :=
  .next (s.loadY s.a)

/-- TXA (41_load_store_transfer.md R128, 40_addressing_modes.md R100). -/
def execTxa (s : State) : Host.Outcome State Fault Refusal :=
  .next (s.loadA s.x)

/-- TYA (41_load_store_transfer.md R129, 40_addressing_modes.md R100). -/
def execTya (s : State) : Host.Outcome State Fault Refusal :=
  .next (s.loadA s.y)

/-- TSX (41_load_store_transfer.md R130, 40_addressing_modes.md R100). -/
def execTsx (s : State) : Host.Outcome State Fault Refusal :=
  .next (s.loadX s.sp)

/-- TXS (41_load_store_transfer.md R131, 40_addressing_modes.md R100). No flag is changed. -/
def execTxs (s : State) : Host.Outcome State Fault Refusal :=
  .next (s.setSp s.x)

end Sys2Proof.Machine
end

