-- ==== Sys2Proof/Machine/Logic.lean ====
section
/-! DEFINITION. The meanings of the logical, bit test, shift and rotate instructions (43_logic_shift.md). PC has been
advanced past the instruction before a meaning runs (00_scope.md R11). Every one answers a next state: none of these
instructions can raise an exception (60_exceptions.md R221), and BRK's trap is its effect. -/

namespace Sys2Proof.Machine

/-- AND (zp,X) (43_logic_shift.md R160, 40_addressing_modes.md R110). -/
def execAndIndX (zp : Byte) (s : State) : Host.Outcome State Fault Refusal :=
  .next (andIntoA (readOperand (.indX zp) s))

/-- AND zp (43_logic_shift.md R160, 40_addressing_modes.md R103). -/
def execAndZp (zp : Byte) (s : State) : Host.Outcome State Fault Refusal :=
  .next (andIntoA (readOperand (.zp zp) s))

/-- AND #imm (43_logic_shift.md R160, 40_addressing_modes.md R102). -/
def execAndImm (imm : Byte) (s : State) : Host.Outcome State Fault Refusal :=
  .next (andIntoA (imm, s))

/-- AND addr (43_logic_shift.md R160, 40_addressing_modes.md R106). -/
def execAndAbs (addr : Word) (s : State) : Host.Outcome State Fault Refusal :=
  .next (andIntoA (readOperand (.abs addr) s))

/-- AND (zp),Y (43_logic_shift.md R160, 40_addressing_modes.md R111). -/
def execAndIndY (zp : Byte) (s : State) : Host.Outcome State Fault Refusal :=
  .next (andIntoA (readOperand (.indY zp) s))

/-- AND zp,X (43_logic_shift.md R160, 40_addressing_modes.md R104). -/
def execAndZpX (zp : Byte) (s : State) : Host.Outcome State Fault Refusal :=
  .next (andIntoA (readOperand (.zpX zp) s))

/-- AND addr,Y (43_logic_shift.md R160, 40_addressing_modes.md R108). -/
def execAndAbsY (addr : Word) (s : State) : Host.Outcome State Fault Refusal :=
  .next (andIntoA (readOperand (.absY addr) s))

/-- AND addr,X (43_logic_shift.md R160, 40_addressing_modes.md R107). -/
def execAndAbsX (addr : Word) (s : State) : Host.Outcome State Fault Refusal :=
  .next (andIntoA (readOperand (.absX addr) s))

/-- ORA (zp,X) (43_logic_shift.md R161, 40_addressing_modes.md R110). -/
def execOraIndX (zp : Byte) (s : State) : Host.Outcome State Fault Refusal :=
  .next (orIntoA (readOperand (.indX zp) s))

/-- ORA zp (43_logic_shift.md R161, 40_addressing_modes.md R103). -/
def execOraZp (zp : Byte) (s : State) : Host.Outcome State Fault Refusal :=
  .next (orIntoA (readOperand (.zp zp) s))

/-- ORA #imm (43_logic_shift.md R161, 40_addressing_modes.md R102). -/
def execOraImm (imm : Byte) (s : State) : Host.Outcome State Fault Refusal :=
  .next (orIntoA (imm, s))

/-- ORA addr (43_logic_shift.md R161, 40_addressing_modes.md R106). -/
def execOraAbs (addr : Word) (s : State) : Host.Outcome State Fault Refusal :=
  .next (orIntoA (readOperand (.abs addr) s))

/-- ORA (zp),Y (43_logic_shift.md R161, 40_addressing_modes.md R111). -/
def execOraIndY (zp : Byte) (s : State) : Host.Outcome State Fault Refusal :=
  .next (orIntoA (readOperand (.indY zp) s))

/-- ORA zp,X (43_logic_shift.md R161, 40_addressing_modes.md R104). -/
def execOraZpX (zp : Byte) (s : State) : Host.Outcome State Fault Refusal :=
  .next (orIntoA (readOperand (.zpX zp) s))

/-- ORA addr,Y (43_logic_shift.md R161, 40_addressing_modes.md R108). -/
def execOraAbsY (addr : Word) (s : State) : Host.Outcome State Fault Refusal :=
  .next (orIntoA (readOperand (.absY addr) s))

/-- ORA addr,X (43_logic_shift.md R161, 40_addressing_modes.md R107). -/
def execOraAbsX (addr : Word) (s : State) : Host.Outcome State Fault Refusal :=
  .next (orIntoA (readOperand (.absX addr) s))

/-- EOR (zp,X) (43_logic_shift.md R162, 40_addressing_modes.md R110). -/
def execEorIndX (zp : Byte) (s : State) : Host.Outcome State Fault Refusal :=
  .next (xorIntoA (readOperand (.indX zp) s))

/-- EOR zp (43_logic_shift.md R162, 40_addressing_modes.md R103). -/
def execEorZp (zp : Byte) (s : State) : Host.Outcome State Fault Refusal :=
  .next (xorIntoA (readOperand (.zp zp) s))

/-- EOR #imm (43_logic_shift.md R162, 40_addressing_modes.md R102). -/
def execEorImm (imm : Byte) (s : State) : Host.Outcome State Fault Refusal :=
  .next (xorIntoA (imm, s))

/-- EOR addr (43_logic_shift.md R162, 40_addressing_modes.md R106). -/
def execEorAbs (addr : Word) (s : State) : Host.Outcome State Fault Refusal :=
  .next (xorIntoA (readOperand (.abs addr) s))

/-- EOR (zp),Y (43_logic_shift.md R162, 40_addressing_modes.md R111). -/
def execEorIndY (zp : Byte) (s : State) : Host.Outcome State Fault Refusal :=
  .next (xorIntoA (readOperand (.indY zp) s))

/-- EOR zp,X (43_logic_shift.md R162, 40_addressing_modes.md R104). -/
def execEorZpX (zp : Byte) (s : State) : Host.Outcome State Fault Refusal :=
  .next (xorIntoA (readOperand (.zpX zp) s))

/-- EOR addr,Y (43_logic_shift.md R162, 40_addressing_modes.md R108). -/
def execEorAbsY (addr : Word) (s : State) : Host.Outcome State Fault Refusal :=
  .next (xorIntoA (readOperand (.absY addr) s))

/-- EOR addr,X (43_logic_shift.md R162, 40_addressing_modes.md R107). -/
def execEorAbsX (addr : Word) (s : State) : Host.Outcome State Fault Refusal :=
  .next (xorIntoA (readOperand (.absX addr) s))

/-- BIT zp (43_logic_shift.md R163, 40_addressing_modes.md R103). -/
def execBitZp (zp : Byte) (s : State) : Host.Outcome State Fault Refusal :=
  .next (testBits (readOperand (.zp zp) s))

/-- BIT addr (43_logic_shift.md R163, 40_addressing_modes.md R106). -/
def execBitAbs (addr : Word) (s : State) : Host.Outcome State Fault Refusal :=
  .next (testBits (readOperand (.abs addr) s))

/-- ASL zp (43_logic_shift.md R164, 40_addressing_modes.md R103). -/
def execAslZp (zp : Byte) (s : State) : Host.Outcome State Fault Refusal :=
  .next (modifyOperand (.zp zp) shiftLeft s)

/-- ASL A (43_logic_shift.md R164, 40_addressing_modes.md R101). -/
def execAslAcc (s : State) : Host.Outcome State Fault Refusal :=
  .next (modifyA shiftLeft s)

/-- ASL addr (43_logic_shift.md R164, 40_addressing_modes.md R106). -/
def execAslAbs (addr : Word) (s : State) : Host.Outcome State Fault Refusal :=
  .next (modifyOperand (.abs addr) shiftLeft s)

/-- ASL zp,X (43_logic_shift.md R164, 40_addressing_modes.md R104). -/
def execAslZpX (zp : Byte) (s : State) : Host.Outcome State Fault Refusal :=
  .next (modifyOperand (.zpX zp) shiftLeft s)

/-- ASL addr,X (43_logic_shift.md R164, 40_addressing_modes.md R107). -/
def execAslAbsX (addr : Word) (s : State) : Host.Outcome State Fault Refusal :=
  .next (modifyOperand (.absX addr) shiftLeft s)

/-- LSR zp (43_logic_shift.md R165, 40_addressing_modes.md R103). -/
def execLsrZp (zp : Byte) (s : State) : Host.Outcome State Fault Refusal :=
  .next (modifyOperand (.zp zp) shiftRight s)

/-- LSR A (43_logic_shift.md R165, 40_addressing_modes.md R101). -/
def execLsrAcc (s : State) : Host.Outcome State Fault Refusal :=
  .next (modifyA shiftRight s)

/-- LSR addr (43_logic_shift.md R165, 40_addressing_modes.md R106). -/
def execLsrAbs (addr : Word) (s : State) : Host.Outcome State Fault Refusal :=
  .next (modifyOperand (.abs addr) shiftRight s)

/-- LSR zp,X (43_logic_shift.md R165, 40_addressing_modes.md R104). -/
def execLsrZpX (zp : Byte) (s : State) : Host.Outcome State Fault Refusal :=
  .next (modifyOperand (.zpX zp) shiftRight s)

/-- LSR addr,X (43_logic_shift.md R165, 40_addressing_modes.md R107). -/
def execLsrAbsX (addr : Word) (s : State) : Host.Outcome State Fault Refusal :=
  .next (modifyOperand (.absX addr) shiftRight s)

/-- ROL zp (43_logic_shift.md R166, 40_addressing_modes.md R103). -/
def execRolZp (zp : Byte) (s : State) : Host.Outcome State Fault Refusal :=
  .next (modifyOperand (.zp zp) rotateLeft s)

/-- ROL A (43_logic_shift.md R166, 40_addressing_modes.md R101). -/
def execRolAcc (s : State) : Host.Outcome State Fault Refusal :=
  .next (modifyA rotateLeft s)

/-- ROL addr (43_logic_shift.md R166, 40_addressing_modes.md R106). -/
def execRolAbs (addr : Word) (s : State) : Host.Outcome State Fault Refusal :=
  .next (modifyOperand (.abs addr) rotateLeft s)

/-- ROL zp,X (43_logic_shift.md R166, 40_addressing_modes.md R104). -/
def execRolZpX (zp : Byte) (s : State) : Host.Outcome State Fault Refusal :=
  .next (modifyOperand (.zpX zp) rotateLeft s)

/-- ROL addr,X (43_logic_shift.md R166, 40_addressing_modes.md R107). -/
def execRolAbsX (addr : Word) (s : State) : Host.Outcome State Fault Refusal :=
  .next (modifyOperand (.absX addr) rotateLeft s)

/-- ROR zp (43_logic_shift.md R167, 40_addressing_modes.md R103). -/
def execRorZp (zp : Byte) (s : State) : Host.Outcome State Fault Refusal :=
  .next (modifyOperand (.zp zp) rotateRight s)

/-- ROR A (43_logic_shift.md R167, 40_addressing_modes.md R101). -/
def execRorAcc (s : State) : Host.Outcome State Fault Refusal :=
  .next (modifyA rotateRight s)

/-- ROR addr (43_logic_shift.md R167, 40_addressing_modes.md R106). -/
def execRorAbs (addr : Word) (s : State) : Host.Outcome State Fault Refusal :=
  .next (modifyOperand (.abs addr) rotateRight s)

/-- ROR zp,X (43_logic_shift.md R167, 40_addressing_modes.md R104). -/
def execRorZpX (zp : Byte) (s : State) : Host.Outcome State Fault Refusal :=
  .next (modifyOperand (.zpX zp) rotateRight s)

/-- ROR addr,X (43_logic_shift.md R167, 40_addressing_modes.md R107). -/
def execRorAbsX (addr : Word) (s : State) : Host.Outcome State Fault Refusal :=
  .next (modifyOperand (.absX addr) rotateRight s)

end Sys2Proof.Machine
end

