-- ==== Sys2Proof/Machine/System.lean ====
section
/-! DEFINITION. The meanings of the stack, flag and system instructions (45_stack_flag_system.md). PC has been
advanced past the instruction before a meaning runs (00_scope.md R11). Every one answers a next state: none of these
instructions can raise an exception (60_exceptions.md R221), and BRK's trap is its effect. -/

namespace Sys2Proof.Machine

/-- PLP (45_stack_flag_system.md R203): `UnpackP(pull())`. -/
def pullStatus (s : State) : State :=
  let v := pull (peekStack s)
  (v.2.setP (unpackP v.1)).setOldI (some s.p.i)

/-- PHA (45_stack_flag_system.md R200, 40_addressing_modes.md R100). -/
def execPha (s : State) : Host.Outcome State Fault Refusal :=
  .next (push s.a s)

/-- PHP (45_stack_flag_system.md R201, 40_addressing_modes.md R100). -/
def execPhp (s : State) : Host.Outcome State Fault Refusal :=
  .next (push (packP s.p true) s)

/-- PLA (45_stack_flag_system.md R202, 40_addressing_modes.md R100). -/
def execPla (s : State) : Host.Outcome State Fault Refusal :=
  .next (loadIntoA (pull (peekStack s)))

/-- PLP (45_stack_flag_system.md R203, 40_addressing_modes.md R100). The boundary after it may still see the old I (60_exceptions.md R226). -/
def execPlp (s : State) : Host.Outcome State Fault Refusal :=
  .next (pullStatus s)

/-- CLC (45_stack_flag_system.md R204, 40_addressing_modes.md R100). -/
def execClc (s : State) : Host.Outcome State Fault Refusal :=
  .next (s.setP { s.p with c := false })

/-- SEC (45_stack_flag_system.md R205, 40_addressing_modes.md R100). -/
def execSec (s : State) : Host.Outcome State Fault Refusal :=
  .next (s.setP { s.p with c := true })

/-- CLI (45_stack_flag_system.md R206, 40_addressing_modes.md R100). The boundary after it may still see the old I (60_exceptions.md R226). -/
def execCli (s : State) : Host.Outcome State Fault Refusal :=
  .next ((s.setP { s.p with i := false }).setOldI (some s.p.i))

/-- SEI (45_stack_flag_system.md R207, 40_addressing_modes.md R100). The boundary after it may still see the old I (60_exceptions.md R226). -/
def execSei (s : State) : Host.Outcome State Fault Refusal :=
  .next ((s.setP { s.p with i := true }).setOldI (some s.p.i))

/-- CLD (45_stack_flag_system.md R208, 40_addressing_modes.md R100). -/
def execCld (s : State) : Host.Outcome State Fault Refusal :=
  .next (s.setP { s.p with d := false })

/-- SED (45_stack_flag_system.md R209, 40_addressing_modes.md R100). -/
def execSed (s : State) : Host.Outcome State Fault Refusal :=
  .next (s.setP { s.p with d := true })

/-- CLV (45_stack_flag_system.md R210, 40_addressing_modes.md R100). -/
def execClv (s : State) : Host.Outcome State Fault Refusal :=
  .next (s.setP { s.p with v := false })

/-- NOP (45_stack_flag_system.md R211). PC has been advanced. -/
def execNop (s : State) : Host.Outcome State Fault Refusal :=
  .next s

/-- BRK (45_stack_flag_system.md R212, 40_addressing_modes.md R100). PC is past the opcode, so the return address, the opcode's address + 2, is PC + 1. -/
def execBrk (s : State) : Host.Outcome State Fault Refusal :=
  .next (takeTrap true (s.pc + 1) s)

/-- RTI (45_stack_flag_system.md R213, 40_addressing_modes.md R100). The restored I counts at once. -/
def execRti (s : State) : Host.Outcome State Fault Refusal :=
  .next (returnFromTrap s)

end Sys2Proof.Machine
end

