-- ==== Sys2Proof/Machine/Boundary.lean ====
section
/-! DEFINITION. What happens at an instruction boundary (60_exceptions.md R226) and around an instruction: the sample of
the pins, the recognition of RES, NMI and IRQ, the fetch of an instruction's bytes (30_encoding.md R82), and what an
NMI, S.O. or RES edge inside a step leaves behind. -/

namespace Sys2Proof.Machine

/-- Takes the next sample of the pins, an idle one if there is none (log 7), and starts an empty trace. -/
def nextSample (s : State) : State :=
  match s.env.samples with
  | [] => s.setEnv { s.env with now := Sample.idle, trace := [] }
  | x :: later => s.setEnv { s.env with samples := later, now := x, trace := [] }

/-- An NMI edge is latched (10_state.md R34) and an S.O. edge sets V (10_state.md R36), on a member with the pin. -/
def applyEdges (s : State) : State :=
  (s.setNmiPending (s.nmiPending || (hasNmi s.cfg.member && s.env.now.nmiEdge))).setP
    { s.p with v := s.p.v || (hasSo s.cfg.member && s.env.now.soEdge) }

/-- RDY is seen high; a member without the pin always sees it high (00_scope.md R5, 60_exceptions.md R228). -/
def rdySeenHigh (s : State) : Bool := !(hasRdy s.cfg.member && s.env.now.rdyLow)

/-- The mask is seen clear: it is P.I that is examined, or right after CLI, SEI or PLP the I before that instruction, as
the environment chooses (60_exceptions.md R226, log 9). -/
def maskSeenClear (s : State) : Bool := !(if s.env.now.useOldMask then s.oldI.getD s.p.i else s.p.i)

/-- What the processor does at a boundary. -/
inductive Boundary where
  /-- RES is low: held in reset (10_state.md R38). -/
  | held
  /-- RES has gone high: the reset sequence (70_reset_and_hazards.md R260). -/
  | reset
  /-- RDY is low: halted (10_state.md R37). -/
  | halted
  /-- The NMI sequence. -/
  | nmi
  /-- The IRQ sequence. -/
  | irq
  /-- Fetch the next instruction at PC. -/
  | instruction
deriving DecidableEq, Repr

/-- The recognition rule (60_exceptions.md R226) with its priority (R231): RES, then NMI, then IRQ. Neither interrupt is
recognised while RDY is low (R228), and RES does not need RDY. -/
def recognise (s : State) : Boundary :=
  if s.env.now.resLow then .held
  else if s.inReset then .reset
  else if !rdySeenHigh s then .halted
  else if s.nmiPending then .nmi
  else if s.env.now.irqLow && maskSeenClear s then .irq
  else .instruction

/-- Fetches and decodes the instruction at PC and advances PC past it (10_state.md R24, 30_encoding.md R82). Cycle 1
reads the opcode, cycle 2 reads the byte after it whether or not the instruction has it, and cycle 3 the third byte
of a three-byte instruction (70_reset_and_hazards.md R274). JSR reads its third byte itself, after its pushes
(44_control_transfer.md R189), so here it is only looked at (log 20). -/
def fetch (s : State) : Except DecodeError (Instr × State) :=
  let r0 := busRead true s.pc s
  match opcodeLength r0.1 with
  | none => .error (.undefinedOpcode r0.1)
  | some n =>
    let r1 := memRead (s.pc + 1) r0.2
    let r2 := if n = 3 ∧ r0.1 ≠ opcode (.jsr 0) then memRead (s.pc + 2) r1.2 else (r1.2.peek (s.pc + 2), r1.2)
    match decode r0.1 r1.1 r2.1 with
    | .error e => .error e
    | .ok i => .ok (i, r2.2.setPc (s.pc + BitVec.ofNat 16 n))

/-- An NMI edge that came during the step, and that no sequence has used up, is latched (10_state.md R34). -/
def latchNmi (x : Sample) (s : State) : State :=
  if x.nmiDuring && s.env.now.nmiDuring && hasNmi s.cfg.member then s.setNmiPending true else s

/-- An S.O. edge that came during the step sets V, whatever the step has written there (10_state.md R36, log 12). -/
def setVDuring (x : Sample) (s : State) : State := s.setP { s.p with v := s.p.v || (hasSo s.cfg.member && x.soDuring) }

/-- What one bus cycle does to the platform and the environment: a write cycle stores its byte, in a read cycle a DMA
master may act (20_memory.md R63) and the environment gives its byte, and devices see it (20_memory.md R57). -/
def replayCycle (s : State) (c : BusCycle) : State :=
  let s1 :=
    if c.write then s.poke c.addr c.data
    else
      let s0 := dmaCycle s
      s0.setEnv (s0.env.afterRead (kindAt s0.cfg.map c.addr))
  s1.setEnv (s1.env.record c)

/-- The byte at a bus address is RAM that a step has written in its cycles `before`. -/
def writtenBefore (cfg : Config) (before : List BusCycle) (addr : Nat) : Bool :=
  kindAt cfg.map addr == .ram && before.any (fun w => w.write && w.addr == addr)

/-- One cycle for which the processor goes on once RES is low, after the cycles `before` of the step. A write is inhibited
(10_state.md R38, 20_memory.md R67). That no other access is made in its place is a DESIGN CHOICE (log 29). A read of a
byte the step was to write before it returns any value (93_implementation_defined.md U6, log 30). -/
def cycleUnderRes (before : List BusCycle) (s : State) (c : BusCycle) : State :=
  if c.write then s
  else if writtenBefore s.cfg before c.addr then
    (replayCycle s { c with data := Config.freeByte s.env.free }).useFree 1
  else replayCycle s c

/-- The cycles for which the processor goes on once RES is low, after the cycles `before` of the step. -/
def goOnUnderRes : List BusCycle → List BusCycle → State → State
  | _, [], s => s
  | before, c :: later, s => goOnUnderRes (before ++ [c]) later (cycleUnderRes before s c)

/-- What happens, of the bus cycles a step would make from `s`, when RES goes low in it: all cycles until then, and as
many after it as the processor goes on for. -/
def replayUntilRes (r : ResFall) (cycles : List BusCycle) (s : State) : State :=
  let before := cycles.take (r.after + 1)
  goOnUnderRes before ((cycles.drop (r.after + 1)).take r.goesOn) (before.foldl replayCycle s)

/-- Sets one byte of memory that a cut-off instruction would have written to a free value (log 17). -/
def scrambleByte (s : State) (c : BusCycle) : State :=
  if c.write then (s.poke c.addr (Config.freeByte s.env.free)).useFree 1 else s

/-- All registers hold any value: the processor was stopped inside an instruction (93_implementation_defined.md U6). -/
def stoppedRegisters (s : State) : State :=
  let s1 := anyRegisters s
  (s1.setPc (joinBytes (Config.freeByte (s1.env.free + 1)) (Config.freeByte s1.env.free))).useFree 2

/-- RES has gone low during a step that began in `s` and would have ended in `t`: only the cycles of `replayUntilRes`
happen, a byte the step would have written may hold anything, the registers too, and the reset is under way
(60_exceptions.md R238, 93_implementation_defined.md U6, log 17). -/
def cutOffByRes (s t : State) : State :=
  match s.env.now.resDuring with
  | none => t
  | some r =>
    let s1 := replayUntilRes r t.env.trace s
    (stoppedRegisters (t.env.trace.foldl scrambleByte s1)).setInReset true

/-- What the edges inside a step that began in `s` and ended in `t` leave behind. -/
def afterStep (s t : State) : State := cutOffByRes s (setVDuring s.env.now (latchNmi s.env.now t))

/-! ## The step -/

/-- Fetches the instruction at PC and runs it (60_exceptions.md R226, case 4). From here on the mask of an earlier CLI,
SEI or PLP no longer counts. -/
def runInstruction (s : State) : Host.Outcome State Fault Refusal :=
  match fetch s with
  | .error (.undefinedOpcode b) => .refused (.undefinedOpcode b)
  | .error .tooFewBytes => .refused (.undefinedOpcode 0)
  | .ok r => exec r.1 (r.2.setOldI none)

/-- What the processor does once the pins have been sampled, with no edge in between. -/
def perform (s : State) : Host.Outcome State Fault Refusal :=
  match recognise s with
  | .held => .next (holdInReset s)
  | .reset => .next (resetSequence s)
  | .halted => .next s
  | .nmi => .next (nmiSequence s)
  | .irq => .next (irqSequence s)
  | .instruction => runInstruction s

/-- What the processor does once the pins have been sampled, with the edges in between. While it is held in reset no
edge inside the step counts: an NMI edge is dropped (10_state.md R34). -/
def atBoundary (s : State) : Host.Outcome State Fault Refusal :=
  match perform s with
  | .next t => .next (if recognise s = .held then t else afterStep s t)
  | .fault r => .fault r
  | .refused r => .refused r

end Sys2Proof.Machine
end

