-- ==== Sys2Proof/Machine/Step.lean ====
section
/-! DEFINITION. One step of the machine: what the processor does at one boundary (60_exceptions.md R226). -/

namespace Sys2Proof.Machine

/-- One step: one instruction, one trap or reset sequence, or one boundary at which the processor is held
(10_state.md R19). -/
def step (s : State) : Host.Outcome State Fault Refusal := atBoundary (applyEdges (nextSample s))

/-- Stores one byte of a program at an address from outside, as a loader or a ROM programmer does. Where the map has no
memory there, it gets one byte of RAM. -/
def State.place (s : State) (addr : Word) (v : Byte) : State :=
  let n := busAddr s.cfg.member addr
  let s1 := s.setMem (s.mem.write n v)
  match kindAt s.cfg.map n with
  | .ram => s1
  | .rom => s1
  | .device => { s1 with cfg := { s.cfg with map := { base := n, size := 1, kind := .ram } :: s.cfg.map } }
  | .unmapped => { s1 with cfg := { s.cfg with map := { base := n, size := 1, kind := .ram } :: s.cfg.map } }

/-- `s` with the instruction whose first `nbits` bits are `w` at PC, and the environment asking for nothing, so that the
very next step fetches and runs it (log 26). -/
def State.withFetchWord (s : State) (nbits w : Nat) : State :=
  let s1 := ((s.place s.pc (tableByte nbits w 0)).place (s.pc + 1) (tableByte nbits w 1)).place (s.pc + 2)
    (tableByte nbits w 2)
  ((s1.setEnv { s1.env with samples := [], dma := [] }).setNmiPending false).setInReset false

end Sys2Proof.Machine
end

