-- ==== Sys2Proof/Machine/Timing.lean ====
section
/-! DEFINITION. How many clock cycles an instruction takes (70_reset_and_hazards.md R273, opcode_table.json field
cycles). Timing only: no meaning depends on it. It is written from the tables, apart from the bus cycles the meanings
make, so that the two can be compared. -/

namespace Sys2Proof.Machine

/-- The cycles a taken branch adds: one, and one more when the target is in another page than the next instruction
(40_addressing_modes.md R109). -/
def branchExtra (cond : Bool) (rel : Byte) (s : State) : Nat :=
  if cond then (if hiByte (branchTarget rel s.pc) = hiByte s.pc then 1 else 2) else 0

/-- The cycle a load adds when the index addition crosses a page (40_addressing_modes.md R107, R108, R111). -/
def pageExtra (base : Word) (index : Byte) : Nat := (crossesPage base index).toNat

/-- The clock cycles of an instruction run in a state whose PC is past it. -/
def cycles (i : Instr) (s : State) : Nat :=
  match i with
  | .ldaIndX _ => 6
  | .ldaZp _ => 3
  | .ldaImm _ => 2
  | .ldaAbs _ => 4
  | .ldaIndY zp => 5 + pageExtra (zeroPagePointer zp s).1 s.y
  | .ldaZpX _ => 4
  | .ldaAbsY addr => 4 + pageExtra addr s.y
  | .ldaAbsX addr => 4 + pageExtra addr s.x
  | .ldxImm _ => 2
  | .ldxZp _ => 3
  | .ldxAbs _ => 4
  | .ldxZpY _ => 4
  | .ldxAbsY addr => 4 + pageExtra addr s.y
  | .ldyImm _ => 2
  | .ldyZp _ => 3
  | .ldyAbs _ => 4
  | .ldyZpX _ => 4
  | .ldyAbsX addr => 4 + pageExtra addr s.x
  | .staIndX _ => 6
  | .staZp _ => 3
  | .staAbs _ => 4
  | .staIndY _ => 6
  | .staZpX _ => 4
  | .staAbsY _ => 5
  | .staAbsX _ => 5
  | .stxZp _ => 3
  | .stxAbs _ => 4
  | .stxZpY _ => 4
  | .styZp _ => 3
  | .styAbs _ => 4
  | .styZpX _ => 4
  | .tax => 2
  | .tay => 2
  | .txa => 2
  | .tya => 2
  | .tsx => 2
  | .txs => 2
  | .adcIndX _ => 6
  | .adcZp _ => 3
  | .adcImm _ => 2
  | .adcAbs _ => 4
  | .adcIndY zp => 5 + pageExtra (zeroPagePointer zp s).1 s.y
  | .adcZpX _ => 4
  | .adcAbsY addr => 4 + pageExtra addr s.y
  | .adcAbsX addr => 4 + pageExtra addr s.x
  | .sbcIndX _ => 6
  | .sbcZp _ => 3
  | .sbcImm _ => 2
  | .sbcAbs _ => 4
  | .sbcIndY zp => 5 + pageExtra (zeroPagePointer zp s).1 s.y
  | .sbcZpX _ => 4
  | .sbcAbsY addr => 4 + pageExtra addr s.y
  | .sbcAbsX addr => 4 + pageExtra addr s.x
  | .cmpIndX _ => 6
  | .cmpZp _ => 3
  | .cmpImm _ => 2
  | .cmpAbs _ => 4
  | .cmpIndY zp => 5 + pageExtra (zeroPagePointer zp s).1 s.y
  | .cmpZpX _ => 4
  | .cmpAbsY addr => 4 + pageExtra addr s.y
  | .cmpAbsX addr => 4 + pageExtra addr s.x
  | .cpxImm _ => 2
  | .cpxZp _ => 3
  | .cpxAbs _ => 4
  | .cpyImm _ => 2
  | .cpyZp _ => 3
  | .cpyAbs _ => 4
  | .incZp _ => 5
  | .incAbs _ => 6
  | .incZpX _ => 6
  | .incAbsX _ => 7
  | .inx => 2
  | .iny => 2
  | .decZp _ => 5
  | .decAbs _ => 6
  | .decZpX _ => 6
  | .decAbsX _ => 7
  | .dex => 2
  | .dey => 2
  | .andIndX _ => 6
  | .andZp _ => 3
  | .andImm _ => 2
  | .andAbs _ => 4
  | .andIndY zp => 5 + pageExtra (zeroPagePointer zp s).1 s.y
  | .andZpX _ => 4
  | .andAbsY addr => 4 + pageExtra addr s.y
  | .andAbsX addr => 4 + pageExtra addr s.x
  | .oraIndX _ => 6
  | .oraZp _ => 3
  | .oraImm _ => 2
  | .oraAbs _ => 4
  | .oraIndY zp => 5 + pageExtra (zeroPagePointer zp s).1 s.y
  | .oraZpX _ => 4
  | .oraAbsY addr => 4 + pageExtra addr s.y
  | .oraAbsX addr => 4 + pageExtra addr s.x
  | .eorIndX _ => 6
  | .eorZp _ => 3
  | .eorImm _ => 2
  | .eorAbs _ => 4
  | .eorIndY zp => 5 + pageExtra (zeroPagePointer zp s).1 s.y
  | .eorZpX _ => 4
  | .eorAbsY addr => 4 + pageExtra addr s.y
  | .eorAbsX addr => 4 + pageExtra addr s.x
  | .bitZp _ => 3
  | .bitAbs _ => 4
  | .aslZp _ => 5
  | .aslAcc => 2
  | .aslAbs _ => 6
  | .aslZpX _ => 6
  | .aslAbsX _ => 7
  | .lsrZp _ => 5
  | .lsrAcc => 2
  | .lsrAbs _ => 6
  | .lsrZpX _ => 6
  | .lsrAbsX _ => 7
  | .rolZp _ => 5
  | .rolAcc => 2
  | .rolAbs _ => 6
  | .rolZpX _ => 6
  | .rolAbsX _ => 7
  | .rorZp _ => 5
  | .rorAcc => 2
  | .rorAbs _ => 6
  | .rorZpX _ => 6
  | .rorAbsX _ => 7
  | .bcc rel => 2 + branchExtra (!s.p.c) rel s
  | .bcs rel => 2 + branchExtra (s.p.c) rel s
  | .beq rel => 2 + branchExtra (s.p.z) rel s
  | .bne rel => 2 + branchExtra (!s.p.z) rel s
  | .bmi rel => 2 + branchExtra (s.p.n) rel s
  | .bpl rel => 2 + branchExtra (!s.p.n) rel s
  | .bvc rel => 2 + branchExtra (!s.p.v) rel s
  | .bvs rel => 2 + branchExtra (s.p.v) rel s
  | .jmpAbs _ => 3
  | .jmpInd _ => 5
  | .jsr _ => 6
  | .rts => 6
  | .pha => 3
  | .php => 3
  | .pla => 4
  | .plp => 4
  | .clc => 2
  | .sec => 2
  | .cli => 2
  | .sei => 2
  | .cld => 2
  | .sed => 2
  | .clv => 2
  | .nop => 2
  | .brk => 7
  | .rti => 6

/-- The cycles of those that the fetch of the instruction takes (70_reset_and_hazards.md R274): the opcode, the byte after
it, and the third byte but for JSR's. -/
def fetchCycles (i : Instr) : Nat := if instrLength i = 3 ∧ opcode i ≠ opcode (.jsr 0) then 3 else 2

end Sys2Proof.Machine
end

