-- ==== Sys2Proof/Safety.lean ====
section
/-! DEFINITION. The invariant of the machine, the conditions claims are made under, and how a run ends. -/

namespace Sys2Proof.Machine

/-- The invariant every step keeps: memory is in canonical form, no byte stands beyond the address pins of the member
(20_memory.md R51), and a member without the NMI pin has no NMI pending (00_scope.md R5). -/
def State.Inv (s : State) : Prop :=
  s.mem.wf = true ∧ s.mem.below (2 ^ addressPins s.cfg.member) = true ∧
    (s.nmiPending = true → hasNmi s.cfg.member = true)

/-- The processor and the platform as a claim sees them: every register and flag, the hidden latches, the member and the
map, the samples to come and the sample of the step. Memory, the trace, the DMA schedule, the devices' bytes and the
count of free values are the rest of the state. -/
structure Cpu where
  a : Byte
  x : Byte
  y : Byte
  sp : Byte
  pc : Word
  p : Flags
  nmiPending : Bool
  oldI : Option Bool
  inReset : Bool
  cfg : Config
  samples : List Sample
  now : Sample
deriving DecidableEq, Repr

/-- The processor and the platform of a state. -/
def State.cpu (s : State) : Cpu :=
  { a := s.a, x := s.x, y := s.y, sp := s.sp, pc := s.pc, p := s.p, nmiPending := s.nmiPending, oldI := s.oldI,
    inReset := s.inReset, cfg := s.cfg, samples := s.env.samples, now := s.env.now }

/-- No DMA master acts in the read cycles to come (20_memory.md R63: 'a model without a DMA master'). -/
def State.NoDma (s : State) : Prop := s.env.dma = []

/-- The address is of kind `ram` or `rom`: what memory holds is what a read returns (20_memory.md R57). -/
def State.IsMemory (s : State) (addr : Word) : Prop := s.kindOf addr = .ram ∨ s.kindOf addr = .rom

/-- The address is of kind `ram`: a write reaches memory (20_memory.md R57). -/
def State.IsRam (s : State) (addr : Word) : Prop := s.kindOf addr = .ram

/-- The platform is RAM and ROM throughout and no DMA master acts: every read returns what memory holds. -/
def State.PlainMemory (s : State) : Prop := s.NoDma ∧ ∀ addr, s.IsMemory addr

/-- All of page one, where the stack is (10_state.md R23), is memory. -/
def State.StackIsMemory (s : State) : Prop := ∀ k : Byte, s.IsMemory (stackAddr k)

/-- All of page one is RAM (70_reset_and_hazards.md R262, item 4). -/
def State.StackIsRam (s : State) : Prop := ∀ k : Byte, s.IsRam (stackAddr k)

/-- The state in which the pins of the coming boundary have been sampled (60_exceptions.md R226). -/
def State.sampled (s : State) : State := applyEdges (nextSample s)

/-- No line makes an edge during the step whose pins have been sampled. -/
def State.NoEdgeDuring (s : State) : Prop :=
  s.env.now.nmiDuring = false ∧ s.env.now.soDuring = false ∧ s.env.now.resDuring = none

/-- An NMI edge comes during the step whose pins have been sampled, on a member with the pin (10_state.md R34). -/
def State.nmiEdgeDuring (s : State) : Bool := hasNmi s.cfg.member && s.env.now.nmiDuring

/-- V, once an S.O. edge during the step has set it, on a member with the pin (10_state.md R36). -/
def State.withSoDuring (s : State) (p : Flags) : Flags :=
  { p with v := p.v || (hasSo s.cfg.member && s.env.now.soDuring) }

/-- No line asks for anything at the next boundary, and none is pending (60_exceptions.md R226, case 4). -/
def State.Undisturbed (s : State) : Prop := s.env.samples = [] ∧ s.nmiPending = false ∧ s.inReset = false

/-- A read cycle at `addr` that returned `v`, as a device sees it (20_memory.md R54). -/
def readCycle (s : State) (addr : Word) (v : Byte) : BusCycle :=
  { addr := busAddr s.cfg.member addr, write := false, data := v, sync := false }

/-- A write cycle at `addr` of the byte `v`, as a device sees it (20_memory.md R54). -/
def writeCycle (s : State) (addr : Word) (v : Byte) : BusCycle :=
  { addr := busAddr s.cfg.member addr, write := true, data := v, sync := false }

/-- `d` is what the bus shows of the read cycle `c`, the `k`-th of a step, when RES has gone low before it: the cycle itself,
but for its byte where the step was to write that byte of RAM in an earlier cycle (93_implementation_defined.md U6). -/
def ShownUnderRes (cfg : Config) (step : List BusCycle) : BusCycle × Nat → BusCycle → Prop
  | (c, k), d => d = c ∨ (∃ v, d = { c with data := v }) ∧ kindAt cfg.map c.addr = .ram ∧
      ∃ w ∈ step.take k, w.write = true ∧ w.addr = c.addr

/-- The step has a meaning. It is refused at an undefined opcode only (30_encoding.md R85). -/
def State.Runs (s : State) : Prop := ∃ t, step s = .next t

/-- `t` is reached from `s` by some number of steps. -/
inductive Reaches : State → State → Prop where
  | refl (s : State) : Reaches s s
  | tail {s t u : State} : Reaches s t → step t = .next u → Reaches s u

/-- A run's harness stops here: an OP CODE fetch is about to happen at the stop address (70_reset_and_hazards.md R276,
parameter STOP). It is no fact of the hardware, and `step` does not look at it. -/
def State.atStop (stop : Word) (s : State) : Bool := s.pc == stop

/-- The customary end of a program: a JMP to its own address (70_reset_and_hazards.md R276). -/
def State.jumpsToItself (s : State) : Bool :=
  s.peek s.pc == opcode (.jmpAbs 0) && joinBytes (s.peek (s.pc + 2)) (s.peek (s.pc + 1)) == s.pc

end Sys2Proof.Machine
end

