-- ==== Sys2Proof/Certificates/Slice0/Obligations.lean ====
section
/-! DEFINITION. The statements for the provers. Each docstring names the rule of spec/ it formalises. In all of them PC
stands past the instruction when its meaning runs (00_scope.md R11), an operand's byte M is what the read at the
effective address returns (40_addressing_modes.md), and memory is compared byte by byte through `State.peek`. -/

namespace Sys2Proof.Machine

/-- Every byte of memory is as before, unless a DMA master writes it. -/
def MemoryKept (s t : State) : Prop := s.NoDma → ∀ addr, t.peek addr = s.peek addr

/-- Every byte of memory but those at the bus address of `ea` is as before, unless a DMA master writes it. -/
def MemoryKeptBut (ea : Word) (s t : State) : Prop :=
  s.NoDma → ∀ addr, busAddr s.cfg.member addr ≠ busAddr s.cfg.member ea → t.peek addr = s.peek addr

/-- The instruction `i`, whose words are `words`, completes in `s`: it answers a next state whose processor is `post`,
and stores nothing. -/
def Does (i : Instr) (words : List Byte) (s : State) (post : Cpu) : Prop :=
  encode i = words ∧ ∃ t, exec i s = .next t ∧ t.cpu = post ∧ MemoryKept s t

/-- The instruction `i`, whose words are `words`, completes in `s` by exactly the read cycles of the list, an address
and the byte returned there each: it answers a next state whose processor is `post`, and stores nothing. A byte that
comes from memory is the one memory holds. -/
def DoesReading (i : Instr) (words : List Byte) (s : State) (reads : List (Word × Byte)) (post : Cpu) : Prop :=
  encode i = words ∧ ∃ t, exec i s = .next t ∧ t.cpu = post ∧ MemoryKept s t ∧
    t.env.trace = s.env.trace ++ reads.map (fun r => readCycle s r.1 r.2) ∧
    (s.NoDma → ∀ r ∈ reads, s.IsMemory r.1 → r.2 = s.peek r.1)

/-- The instruction `i`, whose words are `words`, completes in `s` and stores `v` at its operand's effective address: after
the cycles that find it, it makes one write cycle there, which a device sees (20_memory.md R54, R57). It changes nothing
of the processor and no other byte. Where the map has no RAM, nothing is stored. -/
def Stores (i : Instr) (words : List Byte) (s : State) (m : MemOperand) (v : Byte) : Prop :=
  let ea := effectiveAddr .modify m s
  encode i = words ∧ ∃ t, exec i s = .next t ∧ t.cpu = s.cpu ∧
    t.env.trace = ea.2.env.trace ++ [writeCycle s ea.1 v] ∧
    (s.IsRam ea.1 → t.peek ea.1 = v) ∧ (s.NoDma → ¬ s.IsRam ea.1 → t.peek ea.1 = s.peek ea.1) ∧
    MemoryKeptBut ea.1 s t

/-- The read-modify-write instruction `i`, whose words are `words`, completes in `s`: it replaces the byte M at its
operand's effective address by `result M`, sets the flags to `flags M`, and changes nothing else. -/
def Modifies (i : Instr) (words : List Byte) (s : State) (m : MemOperand) (result : Byte → Byte)
    (flags : Byte → Flags) : Prop :=
  let ea := effectiveAddr .modify m s
  let old := (memRead ea.1 ea.2).1
  encode i = words ∧ ∃ t, exec i s = .next t ∧ t.cpu = { s.cpu with p := flags old } ∧
    (s.IsRam ea.1 → t.peek ea.1 = result old) ∧ (s.NoDma → s.IsMemory ea.1 → old = s.peek ea.1) ∧
    (s.NoDma → ¬ s.IsRam ea.1 → t.peek ea.1 = s.peek ea.1) ∧ MemoryKeptBut ea.1 s t

/-- The instruction `i`, whose word is `word`, completes in `s` and pushes `v` (10_state.md R23): it makes one write cycle
at $0100 + S, which a device sees (20_memory.md R54, R57). -/
def Pushes (i : Instr) (word : Byte) (s : State) (v : Byte) : Prop :=
  encode i = [word] ∧ ∃ t, exec i s = .next t ∧ t.cpu = { s.cpu with sp := s.sp - 1 } ∧
    t.env.trace = s.env.trace ++ [writeCycle s (stackAddr s.sp) v] ∧
    (s.IsRam (stackAddr s.sp) → t.peek (stackAddr s.sp) = v) ∧ MemoryKeptBut (stackAddr s.sp) s t

/-- What a trap leaves behind (60_exceptions.md R230): from the state `u` to the state `t`, with return address `ret`,
bit 4 of the stacked P `b` and the vector at `vec`. After the cycles `start` it makes three write cycles and reads the
vector, the bytes `lo` and `hi`. `hidden` is what it does besides. Where no DMA master acts, the vector's bytes are those
memory holds if they come from memory, the stacked bytes are in memory where it is RAM, and no other byte changes. -/
def TrapTaken (start : List BusCycle) (b : Bool) (ret vec : Word) (hidden : Cpu → Cpu) (u t : State) : Prop :=
  ∃ lo hi : Byte,
    t.cpu = hidden { u.cpu with sp := u.sp - 3, p := { u.p with i := true }, pc := joinBytes hi lo } ∧
    t.env.trace = start ++
      [writeCycle u (stackAddr u.sp) (hiByte ret), writeCycle u (stackAddr (u.sp - 1)) (loByte ret),
       writeCycle u (stackAddr (u.sp - 2)) (packP u.p b), readCycle u vec lo, readCycle u (vec + 1) hi] ∧
    (u.NoDma →
      (u.IsMemory vec → lo = u.peek vec) ∧ (u.IsMemory (vec + 1) → hi = u.peek (vec + 1)) ∧
      (u.IsRam (stackAddr u.sp) → t.peek (stackAddr u.sp) = hiByte ret) ∧
      (u.IsRam (stackAddr (u.sp - 1)) → t.peek (stackAddr (u.sp - 1)) = loByte ret) ∧
      (u.IsRam (stackAddr (u.sp - 2)) → t.peek (stackAddr (u.sp - 2)) = packP u.p b) ∧
      ∀ addr, busAddr u.cfg.member addr ≠ busAddr u.cfg.member (stackAddr u.sp) →
        busAddr u.cfg.member addr ≠ busAddr u.cfg.member (stackAddr (u.sp - 1)) →
        busAddr u.cfg.member addr ≠ busAddr u.cfg.member (stackAddr (u.sp - 2)) → t.peek addr = u.peek addr)

/-- The flags of `SetNZ(v)` (00_scope.md R10). -/
def withNZ (p : Flags) (v : Byte) : Flags := { p with n := v.getLsbD 7, z := decide (v = 0) }

end Sys2Proof.Machine

open Sys2Proof Sys2Proof.Machine

/-- Decode and encode agree (30_encoding.md R80 to R84). Every term of `Instr` is well formed. -/
def Obligations.DecodeReadsBackEveryEncodedInstruction : Prop :=
  ∀ (i : Instr) (rest : List Byte), decodeBytes (encode i ++ rest) = .ok (i, rest)

/-- Each string of bytes has one meaning (30_encoding.md R80: byte 0 alone determines the instruction, its mode and its length). -/
def Obligations.DecodedBytesAreTheWordsOfTheInstruction : Prop :=
  ∀ (bytes rest : List Byte) (i : Instr), decodeBytes bytes = .ok (i, rest) →
    bytes = encode i ++ rest ∧ wellFormedBytes (encode i) = true

/-- The opcode matrix and the list of undefined opcodes complement each other (30_encoding.md R84, R85). -/
def Obligations.DecoderRefusesExactlyTheUndefinedOpcodes : Prop :=
  undefinedOpcodes.length = 105 ∧ undefinedOpcodes.Nodup ∧
    ∀ b0 b1 b2 : Byte, decode b0 b1 b2 = .error (.undefinedOpcode b0) ↔ b0 ∈ undefinedOpcodes

/-- The words of 95_test_vectors.md 2.1 and one of each other format (30_encoding.md R81, R84). -/
def Obligations.SampleWordsDecodeToTheirInstructions : Prop :=
  decode 0xEA 0 0 = .ok .nop ∧ decode 0x0A 0 0 = .ok .aslAcc ∧ decode 0xA9 0x10 0 = .ok (.ldaImm 0x10) ∧
    decode 0xA5 0x10 0 = .ok (.ldaZp 0x10) ∧ decode 0xB5 0x10 0 = .ok (.ldaZpX 0x10) ∧
    decode 0xB6 0x10 0 = .ok (.ldxZpY 0x10) ∧ decode 0xAD 0x34 0x12 = .ok (.ldaAbs 0x1234) ∧
    decode 0xBD 0x34 0x12 = .ok (.ldaAbsX 0x1234) ∧ decode 0xB9 0x34 0x12 = .ok (.ldaAbsY 0x1234) ∧
    decode 0xD0 0xFE 0 = .ok (.bne 0xFE) ∧ decode 0xA1 0x10 0 = .ok (.ldaIndX 0x10) ∧
    decode 0xB1 0x10 0 = .ok (.ldaIndY 0x10) ∧ decode 0x6C 0x34 0x12 = .ok (.jmpInd 0x1234)

/-- Case 4 of 60_exceptions.md R226 with the fetch of 30_encoding.md R82. The model's own are these: an empty list of
samples is an idle boundary (log 7), the step forgets the old I (log 9), JSR's third byte is looked at without a cycle
(log 20), and the trace records SYNC only on members with the pin (log 27). -/
def Obligations.StepRunsTheDecodedInstruction : Prop :=
  ∀ (s : State) (i : Instr), s.Undisturbed → s.NoDma → s.IsMemory s.pc → s.IsMemory (s.pc + 1) →
    (fetchCycles i = 3 → s.IsMemory (s.pc + 2)) →
    decode (s.peek s.pc) (s.peek (s.pc + 1)) (s.peek (s.pc + 2)) = .ok i →
    let cycle (k : Word) (sync : Bool) : BusCycle :=
      { addr := busAddr s.cfg.member (s.pc + k), write := false, data := s.peek (s.pc + k), sync := sync }
    step s = exec i { s with
      pc := s.pc + BitVec.ofNat 16 (instrLength i)
      oldI := none
      env := { s.env with
        now := Sample.idle
        trace := [cycle 0 (hasSync s.cfg.member), cycle 1 false] ++
          (if fetchCycles i = 3 then [cycle 2 false] else []) } }

/-- 30_encoding.md R85: a model refuses a program whose execution reaches an opcode fetch of one of these bytes. -/
def Obligations.StepRefusesAnUndefinedOpcode : Prop :=
  ∀ s : State, recognise s.sampled = .instruction →
    (busRead true s.sampled.pc s.sampled).1 ∈ undefinedOpcodes →
    step s = .refused (.undefinedOpcode (busRead true s.sampled.pc s.sampled).1)

/-- The hardware raises no fault (60_exceptions.md R221), and only an undefined opcode is refused (30_encoding.md R85). -/
def Obligations.StepStopsOnlyAtAnUndefinedOpcode : Prop :=
  ∀ s : State, (∃ t, step s = .next t) ∨
    ∃ b ∈ undefinedOpcodes, recognise s.sampled = .instruction ∧ b = (busRead true s.sampled.pc s.sampled).1 ∧
      step s = .refused (.undefinedOpcode b)

/-- 60_exceptions.md R221: there is no synchronous exception besides BRK, whose entry is a next state. -/
def Obligations.EveryInstructionCompletes : Prop :=
  ∀ (i : Instr) (s : State), ∃ t, exec i s = .next t

/-- The invariant of Safety.lean (20_memory.md R51, 00_scope.md R5). The canonical form of memory is the model's own (log 4). -/
def Obligations.StepKeepsTheInvariant : Prop :=
  ∀ s t : State, s.Inv → step s = .next t → t.Inv

/-- The invariant holds at reset. Memory with nothing listed is the model's choice (log 4). -/
def Obligations.ResetMeetsTheInvariant : Prop :=
  State.reset.Inv

/-- The rows of 10_state.md R39 the spec gives a value for. That $FFFC holds the low byte is an inference the spec marks as
its own (91_not_in_source.md N20, log 8); what the two bytes hold is the model's choice (log 4). -/
def Obligations.ResetLeavesWhatTheSpecGives : Prop :=
  State.reset.p.i = true ∧ State.reset.nmiPending = false ∧ State.reset.inReset = false ∧
    State.reset.pc = joinBytes (State.reset.peek 0xFFFD) (State.reset.peek 0xFFFC)

/-- The parameters of 00_scope.md R5 and the map of 20_memory.md R57 are fixed for the run. -/
def Obligations.NoStepChangesThePlatform : Prop :=
  ∀ s t : State, step s = .next t → t.cfg = s.cfg

/-- 20_memory.md R57: `ram`: a read returns the last byte written; `rom`, `unmapped`: a write changes nothing. -/
def Obligations.RamReturnsTheLastByteWritten : Prop :=
  ∀ (s : State) (addr : Word) (v : Byte),
    (s.NoDma → s.IsRam addr → (memRead addr (memWrite addr v s)).1 = v) ∧
    (∀ b, busAddr s.cfg.member b ≠ busAddr s.cfg.member addr → (memWrite addr v s).peek b = s.peek b) ∧
    (¬ s.IsRam addr → ∀ b, (memWrite addr v s).peek b = s.peek b)

/-- 20_memory.md R51. -/
def Obligations.AddressesThatAgreeOnThePinsReachTheSameByte : Prop :=
  ∀ (s : State) (a b : Word) (v : Byte),
    (addressPins s.cfg.member = 12 ∨ addressPins s.cfg.member = 13 ∨ addressPins s.cfg.member = 16) ∧
    busAddr s.cfg.member a = a.toNat % 2 ^ addressPins s.cfg.member ∧
    (a.toNat % 2 ^ addressPins s.cfg.member = b.toNat % 2 ^ addressPins s.cfg.member →
      memRead a s = memRead b s ∧ memWrite a v s = memWrite b v s ∧
      (s.NoDma → s.IsRam a → (memRead b (memWrite a v s)).1 = v))

/-- 20_memory.md R57: `device`: reads return bytes chosen by the environment and every access is an event the device sees. Holding those bytes in a list is the model's choice (log 15). -/
def Obligations.DeviceReadsTakeTheEnvironmentsBytes : Prop :=
  ∀ (s : State) (addr : Word) (v : Byte) (later : List Byte), s.NoDma → s.kindOf addr = .device →
    s.env.deviceIn = v :: later →
    memRead addr s = (v, { s with env := { s.env with
      deviceIn := later
      trace := s.env.trace ++
        [{ addr := busAddr s.cfg.member addr, write := false, data := v, sync := false }] } })

/-- 40_addressing_modes.md R103 to R108. -/
def Obligations.EffectiveAddressesWrapAsTheSpecSays : Prop :=
  ∀ (s : State) (acc : Access) (b : Byte) (w : Word),
    let at_ (m : MemOperand) (n : Nat) : Prop :=
      (effectiveAddr acc m s).1.toNat = n ∧ (effectiveAddr acc m s).2.cpu = s.cpu ∧
        MemoryKept s (effectiveAddr acc m s).2
    at_ (.zp b) b.toNat ∧ at_ (.zpX b) ((b.toNat + s.x.toNat) % 256) ∧
    at_ (.zpY b) ((b.toNat + s.y.toNat) % 256) ∧ at_ (.abs w) w.toNat ∧
    at_ (.absX w) ((w.toNat + s.x.toNat) % 65536) ∧ at_ (.absY w) ((w.toNat + s.y.toNat) % 65536)

/-- 40_addressing_modes.md R110 and R111. -/
def Obligations.PointersInPageZeroWrapInPageZero : Prop :=
  ∀ (s : State) (acc : Access) (b : Byte), s.NoDma → (∀ k : Byte, s.IsMemory (zext16 k)) →
    let page0 (n : Nat) : Nat := (s.peek (BitVec.ofNat 16 (n % 256))).toNat
    let at_ (m : MemOperand) (n : Nat) : Prop :=
      (effectiveAddr acc m s).1.toNat = n ∧ (effectiveAddr acc m s).2.cpu = s.cpu ∧
        MemoryKept s (effectiveAddr acc m s).2
    at_ (.indX b) (256 * page0 (b.toNat + s.x.toNat + 1) + page0 (b.toNat + s.x.toNat)) ∧
    at_ (.indY b) ((256 * page0 (b.toNat + 1) + page0 b.toNat + s.y.toNat) % 65536)

/-- An instruction that reads its operand gets M = MemRead(EA, 1) (40_addressing_modes.md). -/
def Obligations.OperandReadIsTheByteAtTheEffectiveAddress : Prop :=
  ∀ (s : State) (m : MemOperand),
    let ea := effectiveAddr .load m s
    (readOperand m s).2.cpu = s.cpu ∧ MemoryKept s (readOperand m s).2 ∧
    (readOperand m s).2.env.trace = ea.2.env.trace ++
      [{ addr := busAddr s.cfg.member ea.1, write := false, data := (readOperand m s).1, sync := false }] ∧
    (s.NoDma → s.IsMemory ea.1 → (readOperand m s).1 = s.peek ea.1)

/-- LDA (41_load_store_transfer.md R120). -/
def Obligations.LdaLoadsTheOperandIntoA : Prop :=
  ∀ (s : State) (b : Byte) (w : Word),
    let loads (i : Instr) (words : List Byte) (m : Byte) : Prop :=
      Does i words s { s.cpu with a := m, p := withNZ s.p m }
    loads (.ldaIndX b) [0xA1, b] (readOperand (.indX b) s).1 ∧
    loads (.ldaZp b) [0xA5, b] (readOperand (.zp b) s).1 ∧
    loads (.ldaImm b) [0xA9, b] b ∧
    loads (.ldaAbs w) [0xAD, loByte w, hiByte w] (readOperand (.abs w) s).1 ∧
    loads (.ldaIndY b) [0xB1, b] (readOperand (.indY b) s).1 ∧
    loads (.ldaZpX b) [0xB5, b] (readOperand (.zpX b) s).1 ∧
    loads (.ldaAbsY w) [0xB9, loByte w, hiByte w] (readOperand (.absY w) s).1 ∧
    loads (.ldaAbsX w) [0xBD, loByte w, hiByte w] (readOperand (.absX w) s).1

/-- LDX and LDY (41_load_store_transfer.md R121, R122). -/
def Obligations.LdxAndLdyLoadTheirIndexRegister : Prop :=
  ∀ (s : State) (b : Byte) (w : Word),
    let loadsX (i : Instr) (words : List Byte) (m : Byte) : Prop :=
      Does i words s { s.cpu with x := m, p := withNZ s.p m }
    let loadsY (i : Instr) (words : List Byte) (m : Byte) : Prop :=
      Does i words s { s.cpu with y := m, p := withNZ s.p m }
    loadsX (.ldxImm b) [0xA2, b] b ∧
    loadsX (.ldxZp b) [0xA6, b] (readOperand (.zp b) s).1 ∧
    loadsX (.ldxAbs w) [0xAE, loByte w, hiByte w] (readOperand (.abs w) s).1 ∧
    loadsX (.ldxZpY b) [0xB6, b] (readOperand (.zpY b) s).1 ∧
    loadsX (.ldxAbsY w) [0xBE, loByte w, hiByte w] (readOperand (.absY w) s).1 ∧
    loadsY (.ldyImm b) [0xA0, b] b ∧
    loadsY (.ldyZp b) [0xA4, b] (readOperand (.zp b) s).1 ∧
    loadsY (.ldyAbs w) [0xAC, loByte w, hiByte w] (readOperand (.abs w) s).1 ∧
    loadsY (.ldyZpX b) [0xB4, b] (readOperand (.zpX b) s).1 ∧
    loadsY (.ldyAbsX w) [0xBC, loByte w, hiByte w] (readOperand (.absX w) s).1

/-- STA (41_load_store_transfer.md R123). -/
def Obligations.StaStoresAAtTheEffectiveAddress : Prop :=
  ∀ (s : State) (b : Byte) (w : Word),
    Stores (.staIndX b) [0x81, b] s (.indX b) s.a ∧
    Stores (.staZp b) [0x85, b] s (.zp b) s.a ∧
    Stores (.staAbs w) [0x8D, loByte w, hiByte w] s (.abs w) s.a ∧
    Stores (.staIndY b) [0x91, b] s (.indY b) s.a ∧
    Stores (.staZpX b) [0x95, b] s (.zpX b) s.a ∧
    Stores (.staAbsY w) [0x99, loByte w, hiByte w] s (.absY w) s.a ∧
    Stores (.staAbsX w) [0x9D, loByte w, hiByte w] s (.absX w) s.a

/-- STX and STY (41_load_store_transfer.md R124, R125). -/
def Obligations.StxAndStyStoreTheirIndexRegister : Prop :=
  ∀ (s : State) (b : Byte) (w : Word),
    Stores (.stxZp b) [0x86, b] s (.zp b) s.x ∧
    Stores (.stxAbs w) [0x8E, loByte w, hiByte w] s (.abs w) s.x ∧
    Stores (.stxZpY b) [0x96, b] s (.zpY b) s.x ∧
    Stores (.styZp b) [0x84, b] s (.zp b) s.y ∧
    Stores (.styAbs w) [0x8C, loByte w, hiByte w] s (.abs w) s.y ∧
    Stores (.styZpX b) [0x94, b] s (.zpX b) s.y

/-- TAX, TAY, TXA, TYA, TSX (41_load_store_transfer.md R126 to R130). -/
def Obligations.TransfersCopyARegisterAndSetNZ : Prop :=
  ∀ s : State,
    Does .tax [0xAA] s { s.cpu with x := s.a, p := withNZ s.p s.a } ∧
    Does .tay [0xA8] s { s.cpu with y := s.a, p := withNZ s.p s.a } ∧
    Does .txa [0x8A] s { s.cpu with a := s.x, p := withNZ s.p s.x } ∧
    Does .tya [0x98] s { s.cpu with a := s.y, p := withNZ s.p s.y } ∧
    Does .tsx [0xBA] s { s.cpu with x := s.sp, p := withNZ s.p s.sp }

/-- TXS (41_load_store_transfer.md R131). -/
def Obligations.TxsSetsTheStackPointerAndNoFlag : Prop :=
  ∀ s : State, Does .txs [0x9A] s { s.cpu with sp := s.x }

/-- ADC with P.D = 0 (42_arithmetic.md R140). -/
def Obligations.AdcAddsInBinary : Prop :=
  ∀ (s : State) (b : Byte) (w : Word), s.p.d = false →
    let adds (i : Instr) (words : List Byte) (m : Byte) : Prop :=
      let t := s.a.toNat + m.toNat + s.p.c.toNat
      let r : Byte := BitVec.ofNat 8 (t % 256)
      Does i words s { s.cpu with
        a := r
        p := { withNZ s.p r with c := decide (t ≥ 256), v := ((s.a ^^^ r) &&& (m ^^^ r)).getLsbD 7 } }
    adds (.adcIndX b) [0x61, b] (readOperand (.indX b) s).1 ∧
    adds (.adcZp b) [0x65, b] (readOperand (.zp b) s).1 ∧
    adds (.adcImm b) [0x69, b] b ∧
    adds (.adcAbs w) [0x6D, loByte w, hiByte w] (readOperand (.abs w) s).1 ∧
    adds (.adcIndY b) [0x71, b] (readOperand (.indY b) s).1 ∧
    adds (.adcZpX b) [0x75, b] (readOperand (.zpX b) s).1 ∧
    adds (.adcAbsY w) [0x79, loByte w, hiByte w] (readOperand (.absY w) s).1 ∧
    adds (.adcAbsX w) [0x7D, loByte w, hiByte w] (readOperand (.absX w) s).1

/-- SBC with P.D = 0 (42_arithmetic.md R141). -/
def Obligations.SbcSubtractsInBinary : Prop :=
  ∀ (s : State) (b : Byte) (w : Word), s.p.d = false →
    let subs (i : Instr) (words : List Byte) (m : Byte) : Prop :=
      let m1 := m ^^^ 0xFF
      let r : Byte := BitVec.ofInt 8 ((s.a.toNat : Int) - m.toNat - (1 - s.p.c.toNat))
      Does i words s { s.cpu with
        a := r
        p := { withNZ s.p r with
          c := decide (s.a.toNat ≥ m.toNat + (1 - s.p.c.toNat))
          v := ((s.a ^^^ r) &&& (m1 ^^^ r)).getLsbD 7 } }
    subs (.sbcIndX b) [0xE1, b] (readOperand (.indX b) s).1 ∧
    subs (.sbcZp b) [0xE5, b] (readOperand (.zp b) s).1 ∧
    subs (.sbcImm b) [0xE9, b] b ∧
    subs (.sbcAbs w) [0xED, loByte w, hiByte w] (readOperand (.abs w) s).1 ∧
    subs (.sbcIndY b) [0xF1, b] (readOperand (.indY b) s).1 ∧
    subs (.sbcZpX b) [0xF5, b] (readOperand (.zpX b) s).1 ∧
    subs (.sbcAbsY w) [0xF9, loByte w, hiByte w] (readOperand (.absY w) s).1 ∧
    subs (.sbcAbsX w) [0xFD, loByte w, hiByte w] (readOperand (.absX w) s).1

/-- 42_arithmetic.md R152: V reports signed overflow (the true signed result is outside -128 to +127). -/
def Obligations.OverflowFlagReportsSignedOverflow : Prop :=
  ∀ (s : State) (b : Byte) (w : Word), s.p.d = false →
    let overflows (result : Byte → Int) (i : Instr) (m : Byte) : Prop :=
      ∃ t, exec i s = .next t ∧ (t.p.v = true ↔ result m < -128 ∨ 127 < result m)
    let sum (m : Byte) : Int := s.a.toInt + m.toInt + s.p.c.toNat
    let difference (m : Byte) : Int := s.a.toInt - m.toInt - (1 - s.p.c.toNat)
    overflows sum (.adcIndX b) (readOperand (.indX b) s).1 ∧
    overflows sum (.adcZp b) (readOperand (.zp b) s).1 ∧
    overflows sum (.adcImm b) b ∧
    overflows sum (.adcAbs w) (readOperand (.abs w) s).1 ∧
    overflows sum (.adcIndY b) (readOperand (.indY b) s).1 ∧
    overflows sum (.adcZpX b) (readOperand (.zpX b) s).1 ∧
    overflows sum (.adcAbsY w) (readOperand (.absY w) s).1 ∧
    overflows sum (.adcAbsX w) (readOperand (.absX w) s).1 ∧
    overflows difference (.sbcIndX b) (readOperand (.indX b) s).1 ∧
    overflows difference (.sbcZp b) (readOperand (.zp b) s).1 ∧
    overflows difference (.sbcImm b) b ∧
    overflows difference (.sbcAbs w) (readOperand (.abs w) s).1 ∧
    overflows difference (.sbcIndY b) (readOperand (.indY b) s).1 ∧
    overflows difference (.sbcZpX b) (readOperand (.zpX b) s).1 ∧
    overflows difference (.sbcAbsY w) (readOperand (.absY w) s).1 ∧
    overflows difference (.sbcAbsX w) (readOperand (.absX w) s).1

/-- ADC with P.D = 1 (42_arithmetic.md R153). N, V and Z are free (log 6). -/
def Obligations.AdcAddsInDecimal : Prop :=
  ∀ (s : State) (b : Byte) (w : Word), s.p.d = true → validBcd s.a = true →
    let decimal (i : Instr) (words : List Byte) (m : Byte) : Prop :=
      encode i = words ∧ ∃ t, exec i s = .next t ∧ MemoryKept s t ∧
        (∃ r n v z c, t.cpu = { s.cpu with a := r, p := { s.p with n := n, v := v, z := z, c := c } }) ∧
        (validBcd m = true → validBcd t.a = true ∧ (bcdValue t.a : Int) = ((bcdValue s.a : Int) + bcdValue m + s.p.c.toNat) % 100 ∧ (t.p.c = true ↔ bcdValue s.a + bcdValue m + s.p.c.toNat ≥ 100))
    decimal (.adcIndX b) [0x61, b] (readOperand (.indX b) s).1 ∧
    decimal (.adcZp b) [0x65, b] (readOperand (.zp b) s).1 ∧
    decimal (.adcImm b) [0x69, b] b ∧
    decimal (.adcAbs w) [0x6D, loByte w, hiByte w] (readOperand (.abs w) s).1 ∧
    decimal (.adcIndY b) [0x71, b] (readOperand (.indY b) s).1 ∧
    decimal (.adcZpX b) [0x75, b] (readOperand (.zpX b) s).1 ∧
    decimal (.adcAbsY w) [0x79, loByte w, hiByte w] (readOperand (.absY w) s).1 ∧
    decimal (.adcAbsX w) [0x7D, loByte w, hiByte w] (readOperand (.absX w) s).1

/-- SBC with P.D = 1 (42_arithmetic.md R153). N, V and Z are free (log 6). -/
def Obligations.SbcSubtractsInDecimal : Prop :=
  ∀ (s : State) (b : Byte) (w : Word), s.p.d = true → validBcd s.a = true →
    let decimal (i : Instr) (words : List Byte) (m : Byte) : Prop :=
      encode i = words ∧ ∃ t, exec i s = .next t ∧ MemoryKept s t ∧
        (∃ r n v z c, t.cpu = { s.cpu with a := r, p := { s.p with n := n, v := v, z := z, c := c } }) ∧
        (validBcd m = true → validBcd t.a = true ∧ (bcdValue t.a : Int) = ((bcdValue s.a : Int) - bcdValue m - (1 - s.p.c.toNat)) % 100 ∧ (t.p.c = true ↔ ((bcdValue s.a : Int) - bcdValue m - (1 - s.p.c.toNat)) ≥ 0))
    decimal (.sbcIndX b) [0xE1, b] (readOperand (.indX b) s).1 ∧
    decimal (.sbcZp b) [0xE5, b] (readOperand (.zp b) s).1 ∧
    decimal (.sbcImm b) [0xE9, b] b ∧
    decimal (.sbcAbs w) [0xED, loByte w, hiByte w] (readOperand (.abs w) s).1 ∧
    decimal (.sbcIndY b) [0xF1, b] (readOperand (.indY b) s).1 ∧
    decimal (.sbcZpX b) [0xF5, b] (readOperand (.zpX b) s).1 ∧
    decimal (.sbcAbsY w) [0xF9, loByte w, hiByte w] (readOperand (.absY w) s).1 ∧
    decimal (.sbcAbsX w) [0xFD, loByte w, hiByte w] (readOperand (.absX w) s).1

/-- 93_implementation_defined.md U3: A, P.C, P.N, P.V, P.Z are `any value`; everything else is as for any ADC or SBC. -/
def Obligations.InvalidBcdLeavesTheRestAlone : Prop :=
  ∀ (s : State) (b : Byte) (w : Word), s.p.d = true →
    let frame (i : Instr) : Prop :=
      ∃ t, exec i s = .next t ∧ MemoryKept s t ∧
        ∃ r n v z c, t.cpu = { s.cpu with a := r, p := { s.p with n := n, v := v, z := z, c := c } }
    frame (.adcIndX b) ∧
    frame (.adcZp b) ∧
    frame (.adcImm b) ∧
    frame (.adcAbs w) ∧
    frame (.adcIndY b) ∧
    frame (.adcZpX b) ∧
    frame (.adcAbsY w) ∧
    frame (.adcAbsX w) ∧
    frame (.sbcIndX b) ∧
    frame (.sbcZp b) ∧
    frame (.sbcImm b) ∧
    frame (.sbcAbs w) ∧
    frame (.sbcIndY b) ∧
    frame (.sbcZpX b) ∧
    frame (.sbcAbsY w) ∧
    frame (.sbcAbsX w)

/-- CMP, CPX, CPY (42_arithmetic.md R142 to R144). -/
def Obligations.ComparesSetNZCOnly : Prop :=
  ∀ (s : State) (b : Byte) (w : Word),
    let compares (reg : Byte) (i : Instr) (words : List Byte) (m : Byte) : Prop :=
      Does i words s { s.cpu with
        p := { s.p with
          n := (reg - m).getLsbD 7, z := decide (reg = m), c := decide (reg.toNat ≥ m.toNat) } }
    compares s.a (.cmpIndX b) [0xC1, b] (readOperand (.indX b) s).1 ∧
    compares s.a (.cmpZp b) [0xC5, b] (readOperand (.zp b) s).1 ∧
    compares s.a (.cmpImm b) [0xC9, b] b ∧
    compares s.a (.cmpAbs w) [0xCD, loByte w, hiByte w] (readOperand (.abs w) s).1 ∧
    compares s.a (.cmpIndY b) [0xD1, b] (readOperand (.indY b) s).1 ∧
    compares s.a (.cmpZpX b) [0xD5, b] (readOperand (.zpX b) s).1 ∧
    compares s.a (.cmpAbsY w) [0xD9, loByte w, hiByte w] (readOperand (.absY w) s).1 ∧
    compares s.a (.cmpAbsX w) [0xDD, loByte w, hiByte w] (readOperand (.absX w) s).1 ∧
    compares s.x (.cpxImm b) [0xE0, b] b ∧
    compares s.x (.cpxZp b) [0xE4, b] (readOperand (.zp b) s).1 ∧
    compares s.x (.cpxAbs w) [0xEC, loByte w, hiByte w] (readOperand (.abs w) s).1 ∧
    compares s.y (.cpyImm b) [0xC0, b] b ∧
    compares s.y (.cpyZp b) [0xC4, b] (readOperand (.zp b) s).1 ∧
    compares s.y (.cpyAbs w) [0xCC, loByte w, hiByte w] (readOperand (.abs w) s).1

/-- INC and DEC (42_arithmetic.md R145, R148). -/
def Obligations.IncAndDecChangeOneByte : Prop :=
  ∀ (s : State) (b : Byte) (w : Word),
    let incs (i : Instr) (words : List Byte) (m : MemOperand) : Prop :=
      Modifies i words s m (· + 1) (fun old => withNZ s.p (old + 1))
    let decs (i : Instr) (words : List Byte) (m : MemOperand) : Prop :=
      Modifies i words s m (· - 1) (fun old => withNZ s.p (old - 1))
    incs (.incZp b) [0xE6, b] (.zp b) ∧
    incs (.incAbs w) [0xEE, loByte w, hiByte w] (.abs w) ∧
    incs (.incZpX b) [0xF6, b] (.zpX b) ∧
    incs (.incAbsX w) [0xFE, loByte w, hiByte w] (.absX w) ∧
    decs (.decZp b) [0xC6, b] (.zp b) ∧
    decs (.decAbs w) [0xCE, loByte w, hiByte w] (.abs w) ∧
    decs (.decZpX b) [0xD6, b] (.zpX b) ∧
    decs (.decAbsX w) [0xDE, loByte w, hiByte w] (.absX w)

/-- INX, INY, DEX, DEY (42_arithmetic.md R146, R147, R149, R150). -/
def Obligations.IndexRegistersCountByOne : Prop :=
  ∀ s : State,
    Does .inx [0xE8] s { s.cpu with x := s.x + 1, p := withNZ s.p (s.x + 1) } ∧
    Does .iny [0xC8] s { s.cpu with y := s.y + 1, p := withNZ s.p (s.y + 1) } ∧
    Does .dex [0xCA] s { s.cpu with x := s.x - 1, p := withNZ s.p (s.x - 1) } ∧
    Does .dey [0x88] s { s.cpu with y := s.y - 1, p := withNZ s.p (s.y - 1) }

/-- AND, ORA, EOR (43_logic_shift.md R160 to R162). -/
def Obligations.LogicalInstructionsCombineAWithTheOperand : Prop :=
  ∀ (s : State) (b : Byte) (w : Word),
    let gives (op : Byte → Byte → Byte) (i : Instr) (words : List Byte) (m : Byte) : Prop :=
      Does i words s { s.cpu with a := op s.a m, p := withNZ s.p (op s.a m) }
    gives (· &&& ·) (.andIndX b) [0x21, b] (readOperand (.indX b) s).1 ∧
    gives (· &&& ·) (.andZp b) [0x25, b] (readOperand (.zp b) s).1 ∧
    gives (· &&& ·) (.andImm b) [0x29, b] b ∧
    gives (· &&& ·) (.andAbs w) [0x2D, loByte w, hiByte w] (readOperand (.abs w) s).1 ∧
    gives (· &&& ·) (.andIndY b) [0x31, b] (readOperand (.indY b) s).1 ∧
    gives (· &&& ·) (.andZpX b) [0x35, b] (readOperand (.zpX b) s).1 ∧
    gives (· &&& ·) (.andAbsY w) [0x39, loByte w, hiByte w] (readOperand (.absY w) s).1 ∧
    gives (· &&& ·) (.andAbsX w) [0x3D, loByte w, hiByte w] (readOperand (.absX w) s).1 ∧
    gives (· ||| ·) (.oraIndX b) [0x01, b] (readOperand (.indX b) s).1 ∧
    gives (· ||| ·) (.oraZp b) [0x05, b] (readOperand (.zp b) s).1 ∧
    gives (· ||| ·) (.oraImm b) [0x09, b] b ∧
    gives (· ||| ·) (.oraAbs w) [0x0D, loByte w, hiByte w] (readOperand (.abs w) s).1 ∧
    gives (· ||| ·) (.oraIndY b) [0x11, b] (readOperand (.indY b) s).1 ∧
    gives (· ||| ·) (.oraZpX b) [0x15, b] (readOperand (.zpX b) s).1 ∧
    gives (· ||| ·) (.oraAbsY w) [0x19, loByte w, hiByte w] (readOperand (.absY w) s).1 ∧
    gives (· ||| ·) (.oraAbsX w) [0x1D, loByte w, hiByte w] (readOperand (.absX w) s).1 ∧
    gives (· ^^^ ·) (.eorIndX b) [0x41, b] (readOperand (.indX b) s).1 ∧
    gives (· ^^^ ·) (.eorZp b) [0x45, b] (readOperand (.zp b) s).1 ∧
    gives (· ^^^ ·) (.eorImm b) [0x49, b] b ∧
    gives (· ^^^ ·) (.eorAbs w) [0x4D, loByte w, hiByte w] (readOperand (.abs w) s).1 ∧
    gives (· ^^^ ·) (.eorIndY b) [0x51, b] (readOperand (.indY b) s).1 ∧
    gives (· ^^^ ·) (.eorZpX b) [0x55, b] (readOperand (.zpX b) s).1 ∧
    gives (· ^^^ ·) (.eorAbsY w) [0x59, loByte w, hiByte w] (readOperand (.absY w) s).1 ∧
    gives (· ^^^ ·) (.eorAbsX w) [0x5D, loByte w, hiByte w] (readOperand (.absX w) s).1

/-- BIT (43_logic_shift.md R163). -/
def Obligations.BitTestsMemoryAgainstA : Prop :=
  ∀ (s : State) (b : Byte) (w : Word),
    let tests (i : Instr) (words : List Byte) (m : Byte) : Prop :=
      Does i words s { s.cpu with
        p := { s.p with z := decide (s.a &&& m = 0), n := m.getLsbD 7, v := m.getLsbD 6 } }
    tests (.bitZp b) [0x24, b] (readOperand (.zp b) s).1 ∧
    tests (.bitAbs w) [0x2C, loByte w, hiByte w] (readOperand (.abs w) s).1

/-- ASL and LSR (43_logic_shift.md R164, R165). -/
def Obligations.ShiftsMoveOneBitAndFillWithZero : Prop :=
  ∀ (s : State) (b : Byte) (w : Word),
    let left (v : Byte) : Byte × Bool := (BitVec.ofNat 8 (v.toNat * 2 % 256), v.getLsbD 7)
    let right (v : Byte) : Byte × Bool := (BitVec.ofNat 8 (v.toNat / 2), v.getLsbD 0)
    let onA (f : Byte → Byte × Bool) (i : Instr) (words : List Byte) : Prop :=
      Does i words s { s.cpu with a := (f s.a).1, p := { withNZ s.p (f s.a).1 with c := (f s.a).2 } }
    let inMemory (f : Byte → Byte × Bool) (i : Instr) (words : List Byte) (m : MemOperand) : Prop :=
      Modifies i words s m (fun v => (f v).1) (fun v => { withNZ s.p (f v).1 with c := (f v).2 })
    inMemory left (.aslZp b) [0x06, b] (.zp b) ∧
    onA left .aslAcc [0x0A] ∧
    inMemory left (.aslAbs w) [0x0E, loByte w, hiByte w] (.abs w) ∧
    inMemory left (.aslZpX b) [0x16, b] (.zpX b) ∧
    inMemory left (.aslAbsX w) [0x1E, loByte w, hiByte w] (.absX w) ∧
    inMemory right (.lsrZp b) [0x46, b] (.zp b) ∧
    onA right .lsrAcc [0x4A] ∧
    inMemory right (.lsrAbs w) [0x4E, loByte w, hiByte w] (.abs w) ∧
    inMemory right (.lsrZpX b) [0x56, b] (.zpX b) ∧
    inMemory right (.lsrAbsX w) [0x5E, loByte w, hiByte w] (.absX w)

/-- ROL and ROR (43_logic_shift.md R166, R167). -/
def Obligations.RotatesMoveOneBitThroughCarry : Prop :=
  ∀ (s : State) (b : Byte) (w : Word),
    let left (v : Byte) : Byte × Bool := (BitVec.ofNat 8 (v.toNat * 2 % 256 + s.p.c.toNat), v.getLsbD 7)
    let right (v : Byte) : Byte × Bool := (BitVec.ofNat 8 (s.p.c.toNat * 128 + v.toNat / 2), v.getLsbD 0)
    let onA (f : Byte → Byte × Bool) (i : Instr) (words : List Byte) : Prop :=
      Does i words s { s.cpu with a := (f s.a).1, p := { withNZ s.p (f s.a).1 with c := (f s.a).2 } }
    let inMemory (f : Byte → Byte × Bool) (i : Instr) (words : List Byte) (m : MemOperand) : Prop :=
      Modifies i words s m (fun v => (f v).1) (fun v => { withNZ s.p (f v).1 with c := (f v).2 })
    inMemory left (.rolZp b) [0x26, b] (.zp b) ∧
    onA left .rolAcc [0x2A] ∧
    inMemory left (.rolAbs w) [0x2E, loByte w, hiByte w] (.abs w) ∧
    inMemory left (.rolZpX b) [0x36, b] (.zpX b) ∧
    inMemory left (.rolAbsX w) [0x3E, loByte w, hiByte w] (.absX w) ∧
    inMemory right (.rorZp b) [0x66, b] (.zp b) ∧
    onA right .rorAcc [0x6A] ∧
    inMemory right (.rorAbs w) [0x6E, loByte w, hiByte w] (.abs w) ∧
    inMemory right (.rorZpX b) [0x76, b] (.zpX b) ∧
    inMemory right (.rorAbsX w) [0x7E, loByte w, hiByte w] (.absX w)

/-- 20_memory.md R58 (c): read the operand, write the same value back, then write the result. -/
def Obligations.ReadModifyWriteWritesTheOldByteFirst : Prop :=
  ∀ (s : State) (b : Byte) (w : Word),
    let cyclesOf (i : Instr) (m : MemOperand) (result : Byte → Byte) : Prop :=
      let ea := effectiveAddr .modify m s
      let old := (memRead ea.1 ea.2).1
      ∃ t, exec i s = .next t ∧ (s.IsRam ea.1 → t.peek ea.1 = result old) ∧
        t.env.trace = ea.2.env.trace ++
          [readCycle s ea.1 old, writeCycle s ea.1 old, writeCycle s ea.1 (result old)]
    let asl (v : Byte) : Byte := BitVec.ofNat 8 (v.toNat * 2 % 256)
    let lsr (v : Byte) : Byte := BitVec.ofNat 8 (v.toNat / 2)
    let rol (v : Byte) : Byte := BitVec.ofNat 8 (v.toNat * 2 % 256 + s.p.c.toNat)
    let ror (v : Byte) : Byte := BitVec.ofNat 8 (s.p.c.toNat * 128 + v.toNat / 2)
    let inc (v : Byte) : Byte := v + 1
    let dec (v : Byte) : Byte := v - 1
    cyclesOf (.aslZp b) (.zp b) asl ∧
    cyclesOf (.aslAbs w) (.abs w) asl ∧
    cyclesOf (.aslZpX b) (.zpX b) asl ∧
    cyclesOf (.aslAbsX w) (.absX w) asl ∧
    cyclesOf (.lsrZp b) (.zp b) lsr ∧
    cyclesOf (.lsrAbs w) (.abs w) lsr ∧
    cyclesOf (.lsrZpX b) (.zpX b) lsr ∧
    cyclesOf (.lsrAbsX w) (.absX w) lsr ∧
    cyclesOf (.rolZp b) (.zp b) rol ∧
    cyclesOf (.rolAbs w) (.abs w) rol ∧
    cyclesOf (.rolZpX b) (.zpX b) rol ∧
    cyclesOf (.rolAbsX w) (.absX w) rol ∧
    cyclesOf (.rorZp b) (.zp b) ror ∧
    cyclesOf (.rorAbs w) (.abs w) ror ∧
    cyclesOf (.rorZpX b) (.zpX b) ror ∧
    cyclesOf (.rorAbsX w) (.absX w) ror ∧
    cyclesOf (.incZp b) (.zp b) inc ∧
    cyclesOf (.incAbs w) (.abs w) inc ∧
    cyclesOf (.incZpX b) (.zpX b) inc ∧
    cyclesOf (.incAbsX w) (.absX w) inc ∧
    cyclesOf (.decZp b) (.zp b) dec ∧
    cyclesOf (.decAbs w) (.abs w) dec ∧
    cyclesOf (.decZpX b) (.zpX b) dec ∧
    cyclesOf (.decAbsX w) (.absX w) dec

/-- The eight branches (44_control_transfer.md R180 to R187, R191). -/
def Obligations.BranchesMoveThePCByASignedByte : Prop :=
  ∀ (s : State) (b : Byte),
    let branches (i : Instr) (words : List Byte) (cond : Bool) : Prop :=
      let target : Word := BitVec.ofInt 16 ((s.pc.toNat : Int) + b.toInt)
      encode i = words ∧ ∃ t, exec i s = .next t ∧ t.cpu = { s.cpu with pc := if cond then target else s.pc } ∧
        MemoryKept s t ∧ t.env.trace.length = s.env.trace.length +
          (if cond then (if target.toNat / 256 = s.pc.toNat / 256 then 1 else 2) else 0)
    branches (.bcc b) [0x90, b] (decide (s.p.c = false)) ∧
    branches (.bcs b) [0xB0, b] (decide (s.p.c = true)) ∧
    branches (.beq b) [0xF0, b] (decide (s.p.z = true)) ∧
    branches (.bne b) [0xD0, b] (decide (s.p.z = false)) ∧
    branches (.bmi b) [0x30, b] (decide (s.p.n = true)) ∧
    branches (.bpl b) [0x10, b] (decide (s.p.n = false)) ∧
    branches (.bvc b) [0x50, b] (decide (s.p.v = false)) ∧
    branches (.bvs b) [0x70, b] (decide (s.p.v = true))

/-- JMP (44_control_transfer.md R188, 40_addressing_modes.md R112). -/
def Obligations.JmpLoadsThePC : Prop :=
  ∀ (s : State) (w : Word),
    Does (.jmpAbs w) [0x4C, loByte w, hiByte w] s { s.cpu with pc := w } ∧
    let next : Word := BitVec.ofNat 16 (256 * (w.toNat / 256) + (w.toNat + 1) % 256)
    ∃ lo hi, DoesReading (.jmpInd w) [0x6C, loByte w, hiByte w] s [(w, lo), (next, hi)]
      { s.cpu with pc := joinBytes hi lo }

/-- JSR (44_control_transfer.md R189). The target's high byte is read after the two pushes. The discarded read of the stack top
is 20_memory.md R58 (d) and 70_reset_and_hazards.md R274 (log 16). -/
def Obligations.JsrPushesTheAddressOfItsLastByte : Prop :=
  ∀ (s : State) (w : Word),
    encode (.jsr w) = [0x20, loByte w, hiByte w] ∧ ∃ t top hi, exec (.jsr w) s = .next t ∧
      t.cpu = { s.cpu with sp := s.sp - 2, pc := joinBytes hi (loByte w) } ∧
      t.env.trace = s.env.trace ++
        [readCycle s (stackAddr s.sp) top, writeCycle s (stackAddr s.sp) (hiByte (s.pc - 1)),
         writeCycle s (stackAddr (s.sp - 1)) (loByte (s.pc - 1)), readCycle s (s.pc - 1) hi] ∧
      (s.NoDma →
        (s.IsMemory (s.pc - 1) → hi = t.peek (s.pc - 1)) ∧
        (s.IsRam (stackAddr s.sp) → t.peek (stackAddr s.sp) = hiByte (s.pc - 1)) ∧
        (s.IsRam (stackAddr (s.sp - 1)) → t.peek (stackAddr (s.sp - 1)) = loByte (s.pc - 1)) ∧
        ∀ addr, busAddr s.cfg.member addr ≠ busAddr s.cfg.member (stackAddr s.sp) →
          busAddr s.cfg.member addr ≠ busAddr s.cfg.member (stackAddr (s.sp - 1)) → t.peek addr = s.peek addr)

/-- RTS (44_control_transfer.md R190). The discarded reads of the stack top and of the pulled address are 20_memory.md R58 (d)
and 70_reset_and_hazards.md R274 (log 16). -/
def Obligations.RtsPullsTheAddressAndAddsOne : Prop :=
  ∀ s : State, ∃ top lo hi unused,
    DoesReading .rts [0x60] s
      [(stackAddr s.sp, top), (stackAddr (s.sp + 1), lo), (stackAddr (s.sp + 2), hi), (joinBytes hi lo, unused)]
      { s.cpu with sp := s.sp + 2, pc := joinBytes hi lo + 1 }

/-- JSR pushes the return address and RTS pulls it; A, X, Y and P pass through both (44_control_transfer.md R192). -/
def Obligations.RtsReturnsBehindTheJsr : Prop :=
  ∀ (s t u : State) (w : Word), s.NoDma → s.StackIsRam → exec (.jsr w) s = .next t → exec .rts t = .next u →
    u.cpu = s.cpu

/-- PHA and PHP (45_stack_flag_system.md R200, R201). -/
def Obligations.PushesStoreAndMoveTheStackPointer : Prop :=
  ∀ s : State,
    let v := 128 * s.p.n.toNat + 64 * s.p.v.toNat + 48 + 8 * s.p.d.toNat + 4 * s.p.i.toNat + 2 * s.p.z.toNat +
      s.p.c.toNat
    (stackAddr s.sp).toNat = 0x100 + s.sp.toNat ∧
    Pushes .pha 0x48 s s.a ∧ Pushes .php 0x08 s (BitVec.ofNat 8 v)

/-- PLA and PLP (45_stack_flag_system.md R202, R203). The discarded read of the stack top is 20_memory.md R58 (d) and
70_reset_and_hazards.md R274 (log 16). That PLP notes the I it replaced is the model's (log 9). -/
def Obligations.PullsLoadAAndTheFlags : Prop :=
  ∀ s : State,
    (∃ top m, DoesReading .pla [0x68] s [(stackAddr s.sp, top), (stackAddr (s.sp + 1), m)]
      { s.cpu with sp := s.sp + 1, a := m, p := withNZ s.p m }) ∧
    ∃ top m : Byte, DoesReading .plp [0x28] s [(stackAddr s.sp, top), (stackAddr (s.sp + 1), m)] { s.cpu with
      sp := s.sp + 1
      oldI := some s.p.i
      p := { n := m.getLsbD 7, v := m.getLsbD 6, d := m.getLsbD 3, i := m.getLsbD 2, z := m.getLsbD 1,
             c := m.getLsbD 0 } }

/-- CLC, SEC, CLD, SED, CLV, NOP (45_stack_flag_system.md R204, R205, R208 to R211). -/
def Obligations.FlagInstructionsSetOneFlag : Prop :=
  ∀ s : State,
    Does .clc [0x18] s { s.cpu with p := { s.p with c := false } } ∧
    Does .sec [0x38] s { s.cpu with p := { s.p with c := true } } ∧
    Does .cld [0xD8] s { s.cpu with p := { s.p with d := false } } ∧
    Does .sed [0xF8] s { s.cpu with p := { s.p with d := true } } ∧
    Does .clv [0xB8] s { s.cpu with p := { s.p with v := false } } ∧
    Does .nop [0xEA] s s.cpu

/-- CLI and SEI (45_stack_flag_system.md R206, R207). How the old I is held is the model's (log 9). -/
def Obligations.CliAndSeiWriteTheMask : Prop :=
  ∀ s : State,
    Does .cli [0x58] s { s.cpu with p := { s.p with i := false }, oldI := some s.p.i } ∧
    Does .sei [0x78] s { s.cpu with p := { s.p with i := true }, oldI := some s.p.i }

/-- BRK (45_stack_flag_system.md R212). PC stands one past the opcode when the meaning runs. -/
def Obligations.BrkTakesTheTrapThroughTheIrqVector : Prop :=
  ∀ s : State, s.nmiEdgeDuring = false →
    encode .brk = [0x00] ∧ ∃ t, exec .brk s = .next t ∧
      TrapTaken s.env.trace true (s.pc + 1) 0xFFFE id s t

/-- 60_exceptions.md R232, outcome (b), for BRK and for the IRQ sequence. The model's own: that a sample says so (log 10), the
forgetting of the old I (log 9), the S.O. edge at the end of the step (log 12), SYNC low in the first cycles (log 27). -/
def Obligations.NmiEdgeDuringBrkTakesItsVector : Prop :=
  (∀ s : State, s.nmiEdgeDuring = true →
      ∃ t, exec .brk s = .next t ∧
        TrapTaken s.env.trace true (s.pc + 1) 0xFFFA
          (fun c => { c with nmiPending := false, now := { c.now with nmiDuring := false } }) s t) ∧
    ∀ s : State,
      let u := s.sampled
      recognise u = .irq → u.env.now.resDuring = none → u.nmiEdgeDuring = true →
      ∃ t x y, step s = .next t ∧
        TrapTaken [readCycle u u.pc x, readCycle u u.pc y] false u.pc 0xFFFA
          (fun c => { c with
            nmiPending := false, oldI := none, now := { c.now with nmiDuring := false }
            p := u.withSoDuring c.p }) u t

/-- RTI (45_stack_flag_system.md R213). The discarded read of the stack top is 20_memory.md R58 (d) and
70_reset_and_hazards.md R274 (log 16). That the restored I counts at the next boundary shows here only as `oldI` left
alone, and is completed by `OldMaskCountsOnlyRightAfterCliSeiPlp`. -/
def Obligations.RtiRestoresPAndPC : Prop :=
  ∀ s : State, ∃ top m lo hi : Byte,
    DoesReading .rti [0x40] s
      [(stackAddr s.sp, top), (stackAddr (s.sp + 1), m), (stackAddr (s.sp + 2), lo), (stackAddr (s.sp + 3), hi)]
      { s.cpu with
        sp := s.sp + 3
        pc := joinBytes hi lo
        p := { n := m.getLsbD 7, v := m.getLsbD 6, d := m.getLsbD 3, i := m.getLsbD 2, z := m.getLsbD 1,
               c := m.getLsbD 0 } }

/-- 60_exceptions.md R234: execution resumes exactly at the interrupted instruction boundary. -/
def Obligations.RtiResumesWhereTheTrapWasTaken : Prop :=
  ∀ s t u : State, s.NoDma → s.StackIsRam → exec .rti t = .next u →
    let resumed (pc : Word) : Prop :=
      u.pc = pc ∧ u.p = s.p ∧ u.sp = s.sp ∧ u.a = s.a ∧ u.x = s.x ∧ u.y = s.y
    (exec .brk s = .next t → resumed (s.pc + 1)) ∧ (t = irqSequence s → resumed s.pc) ∧
    (t = nmiSequence s → resumed s.pc)

/-- The lists of writers of 10_state.md R20 to R23, R26, R27 and R29 to R32. N and Z have the same writers (R31). -/
def Obligations.OnlyTheNamedInstructionsWriteEachRegister : Prop :=
  ∀ (i : Instr) (s t : State), exec i s = .next t →
    (t.p.n ≠ s.p.n ∨ t.p.z ≠ s.p.z → opcode i ∉ ([0x81, 0x85, 0x8D, 0x91, 0x95, 0x99, 0x9D, 0x86, 0x8E, 0x96, 0x84, 0x8C, 0x94] ++
      [0x9A, 0x48, 0x08, 0x4C, 0x6C, 0x20, 0x60] ++
      [0x90, 0xB0, 0xF0, 0xD0, 0x30, 0x10, 0x50, 0x70] ++
      [0x18, 0x38, 0x58, 0x78, 0xD8, 0xF8, 0xB8, 0xEA, 0x00] : List Byte)) ∧
    (t.p.d ≠ s.p.d → opcode i ∈ ([0xF8, 0xD8, 0x28, 0x40] : List Byte)) ∧
    (t.p.i ≠ s.p.i → opcode i ∈ ([0x58, 0x78, 0x28, 0x40, 0x00] : List Byte)) ∧
    (t.p.v ≠ s.p.v → opcode i ∈ ([0x61, 0x65, 0x69, 0x6D, 0x71, 0x75, 0x79, 0x7D, 0xE1, 0xE5, 0xE9, 0xED, 0xF1, 0xF5, 0xF9, 0xFD] ++
      [0x24, 0x2C, 0xB8, 0x28, 0x40] : List Byte)) ∧
    (t.p.c ≠ s.p.c → opcode i ∈ ([0x61, 0x65, 0x69, 0x6D, 0x71, 0x75, 0x79, 0x7D, 0xE1, 0xE5, 0xE9, 0xED, 0xF1, 0xF5, 0xF9, 0xFD] ++
      [0xC1, 0xC5, 0xC9, 0xCD, 0xD1, 0xD5, 0xD9, 0xDD, 0xE0, 0xE4, 0xEC, 0xC0, 0xC4, 0xCC] ++
      [0x06, 0x0A, 0x0E, 0x16, 0x1E, 0x46, 0x4A, 0x4E, 0x56, 0x5E] ++
      [0x26, 0x2A, 0x2E, 0x36, 0x3E, 0x66, 0x6A, 0x6E, 0x76, 0x7E] ++ [0x18, 0x38, 0x28, 0x40] : List Byte)) ∧
    (t.sp ≠ s.sp → opcode i ∈ ([0x9A, 0x48, 0x08, 0x68, 0x28, 0x20, 0x60, 0x00, 0x40] : List Byte)) ∧
    (t.x ≠ s.x → opcode i ∈ ([0xA2, 0xA6, 0xAE, 0xB6, 0xBE, 0xAA, 0xBA, 0xE8, 0xCA] : List Byte)) ∧
    (t.y ≠ s.y → opcode i ∈ ([0xA0, 0xA4, 0xAC, 0xB4, 0xBC, 0xA8, 0xC8, 0x88] : List Byte)) ∧
    (t.a ≠ s.a → opcode i ∈ ([0x61, 0x65, 0x69, 0x6D, 0x71, 0x75, 0x79, 0x7D, 0xE1, 0xE5, 0xE9, 0xED, 0xF1, 0xF5, 0xF9, 0xFD] ++
      [0x21, 0x25, 0x29, 0x2D, 0x31, 0x35, 0x39, 0x3D, 0x01, 0x05, 0x09, 0x0D, 0x11, 0x15, 0x19, 0x1D] ++
      [0x41, 0x45, 0x49, 0x4D, 0x51, 0x55, 0x59, 0x5D, 0xA1, 0xA5, 0xA9, 0xAD, 0xB1, 0xB5, 0xB9, 0xBD] ++ [0x68, 0x8A, 0x98] ++
      [0x0A, 0x4A, 0x2A, 0x6A] : List Byte))

/-- The counts of 70_reset_and_hazards.md R273 against the accesses of R274. Timing only. -/
def Obligations.BusCyclesAreTheCycleCounts : Prop :=
  ∀ (i : Instr) (s t : State), exec i s = .next t →
    t.env.trace.length + fetchCycles i = s.env.trace.length + cycles i s

/-- The recognition rule (60_exceptions.md R226, R228, R231). That the sample chooses between I and the held old I is the model's
(log 9). -/
def Obligations.RecognitionFollowsThePriority : Prop :=
  ∀ s : State,
    let x := s.env.now
    let ready : Prop := x.resLow = false ∧ s.inReset = false ∧ ¬ (hasRdy s.cfg.member = true ∧ x.rdyLow = true)
    let masked : Bool := if x.useOldMask then (match s.oldI with | some i => i | none => s.p.i) else s.p.i
    (recognise s = .held ↔ x.resLow = true) ∧
    (recognise s = .reset ↔ x.resLow = false ∧ s.inReset = true) ∧
    (recognise s = .halted ↔ x.resLow = false ∧ s.inReset = false ∧
      hasRdy s.cfg.member = true ∧ x.rdyLow = true) ∧
    (recognise s = .nmi ↔ ready ∧ s.nmiPending = true) ∧
    (recognise s = .irq ↔ ready ∧ s.nmiPending = false ∧ x.irqLow = true ∧ masked = false) ∧
    (recognise s = .instruction ↔ ready ∧ s.nmiPending = false ∧ (x.irqLow = false ∨ masked = true))

/-- The IRQ sequence (60_exceptions.md R230) with its cycles (70_reset_and_hazards.md R274). The model's own: the old I is
forgotten (log 9), an S.O. edge during the step sets V at its end (log 12), SYNC is low (log 27). Where an NMI edge comes
during it, `NmiEdgeDuringBrkTakesItsVector` says what happens. -/
def Obligations.IrqStepTakesTheTrap : Prop :=
  ∀ s : State,
    let u := s.sampled
    recognise u = .irq → u.env.now.resDuring = none → u.nmiEdgeDuring = false →
    ∃ t x y, step s = .next t ∧
      TrapTaken [readCycle u u.pc x, readCycle u u.pc y] false u.pc 0xFFFE
        (fun c => { c with oldI := none, p := u.withSoDuring c.p }) u t

/-- The NMI sequence (60_exceptions.md R230) with its cycles (70_reset_and_hazards.md R274); a new edge during it is latched
(60_exceptions.md R235). The model's own: the old I is forgotten (log 9), an S.O. edge during the step sets V at its end
(log 12), SYNC is low (log 27). -/
def Obligations.NmiStepTakesTheTrapAndClearsTheLatch : Prop :=
  ∀ s : State,
    let u := s.sampled
    recognise u = .nmi → u.env.now.resDuring = none →
    ∃ t x y, step s = .next t ∧
      TrapTaken [readCycle u u.pc x, readCycle u u.pc y] false u.pc 0xFFFA
        (fun c => { c with nmiPending := u.nmiEdgeDuring, oldI := none, p := u.withSoDuring c.p }) u t

/-- The reset sequence (70_reset_and_hazards.md R260) with its cycles (R274). A, X, Y, S, N, V, D, Z, C are free (log 18). That
$FFFC holds the low byte is an inference the spec marks as its own (91_not_in_source.md N20, log 8), and that an NMI edge
inside the sequence is latched is read from 92_eei_decisions.md D5 (log 11). SYNC low is the model's (log 27). -/
def Obligations.ResetStepSetsTheMaskAndLoadsTheVector : Prop :=
  ∀ s : State,
    let u := s.sampled
    recognise u = .reset → u.env.now.resDuring = none →
    ∃ t lo hi r1 r2 r3 r4 r5, step s = .next t ∧ t.p.i = true ∧ t.inReset = false ∧ t.cfg = s.cfg ∧
      t.nmiPending = u.nmiEdgeDuring ∧ t.pc = joinBytes hi lo ∧
      t.env.trace = [readCycle u u.pc r1, readCycle u u.pc r2, readCycle u (stackAddr u.sp) r3,
        readCycle u (stackAddr (u.sp - 1)) r4, readCycle u (stackAddr (u.sp - 2)) r5, readCycle u 0xFFFC lo,
        readCycle u 0xFFFD hi] ∧
      (s.NoDma → (s.IsMemory 0xFFFC → lo = s.peek 0xFFFC) ∧ (s.IsMemory 0xFFFD → hi = s.peek 0xFFFD) ∧
        ∀ addr, t.peek addr = s.peek addr)

/-- 10_state.md R37 (while halted the processor changes no state) and R38; 60_exceptions.md R238 and 20_memory.md R67 (no
write once RES is low). The model's own: no bus cycle while RES is low (log 29), registers keep their values there (log
18), a pending NMI is dropped at that boundary (log 11), RDY halts at boundaries only and without a bus cycle (log 13),
the DMA schedule stays (log 14), edges inside a step count at its end (log 12), and the sample says after how many cycles RES
falls and how many reads still follow (log 17). `perform u` is what the step would have done, and `ShownUnderRes` says what
the bus shows of a read that still follows (93_implementation_defined.md U6, log 30). -/
def Obligations.HeldAndHaltedProcessorsChangeNothing : Prop :=
  ∀ s : State,
    let u := s.sampled
    (recognise u = .held → ∃ t, step s = .next t ∧ t.mem = s.mem ∧ t.env.trace = [] ∧ t.env.dma = s.env.dma ∧
      t.cpu = { u.cpu with inReset := true, nmiPending := false, oldI := none }) ∧
    (recognise u = .halted → u.env.now.resDuring = none →
      ∃ t, step s = .next t ∧ t.mem = s.mem ∧ t.env.trace = [] ∧ t.env.dma = s.env.dma ∧
        t.cpu = { u.cpu with nmiPending := u.nmiPending || u.nmiEdgeDuring, p := u.withSoDuring u.p }) ∧
    ∀ (r : ResFall) (v : State), recognise u ≠ .held → u.env.now.resDuring = some r → perform u = .next v →
      ∃ t seen, step s = .next t ∧ t.cfg = s.cfg ∧
        t.env.trace = v.env.trace.take (r.after + 1) ++ seen ∧
        List.Forall₂ (ShownUnderRes s.cfg v.env.trace)
          ((((v.env.trace.drop (r.after + 1)).take r.goesOn).zipIdx (r.after + 1)).filter (fun c => c.1.write = false))
          seen ∧
        (s.NoDma → ∀ addr, (∀ c ∈ v.env.trace, c.write = true → c.addr ≠ busAddr s.cfg.member addr) →
          t.peek addr = s.peek addr) ∧
        (recognise t.sampled = .held ∨ recognise t.sampled = .reset)

/-- 10_state.md R36: a negative edge sets P.V to 1; the input can only set V, never clear it; R34 for NMI. The model's own:
edges come from the next sample of a list (log 7), an S.O. edge counts at a boundary or at the end of a step (log 12), and
a BRK with an NMI edge in its sample uses that edge up (log 10). -/
def Obligations.EdgesSetOnlyTheirBit : Prop :=
  (∀ (s : State) (x : Sample) (later : List Sample), s.env.samples = x :: later →
      s.sampled.mem = s.mem ∧ s.sampled.cpu = { s.cpu with
        samples := later
        now := x
        p := { s.p with v := s.p.v || (hasSo s.cfg.member && x.soEdge) }
        nmiPending := s.nmiPending || (hasNmi s.cfg.member && x.nmiEdge) }) ∧
    ∀ (s w : State) (i : Instr),
      let u := s.sampled
      recognise u = .instruction → u.env.now.resDuring = none → fetch u = .ok (i, w) →
      ∃ v t, exec i (w.setOldI none) = .next v ∧ step s = .next t ∧ t.mem = v.mem ∧ t.env = v.env ∧
        t.cpu = { v.cpu with p := u.withSoDuring v.p, nmiPending := u.nmiEdgeDuring && decide (i ≠ .brk) }

/-- 60_exceptions.md R226: at every other boundary, including the one right after RTI, it uses the current P.I. -/
def Obligations.OldMaskCountsOnlyRightAfterCliSeiPlp : Prop :=
  (∀ (s s1 t : State) (i : Instr), fetch s = .ok (i, s1) → runInstruction s = .next t →
      t.oldI ≠ none → opcode i ∈ ([0x58, 0x78, 0x28] : List Byte)) ∧
    ∀ s : State, (irqSequence s).oldI = none ∧ (nmiSequence s).oldI = none ∧ (resetSequence s).oldI = none
end

