-- ==== Sys2Proof/Laws/Memory.lean ====
section
/-! SUPPORT. Memory: a read after a write, and the canonical form is kept by every operation. -/

namespace Sys2Proof.Machine

@[simp] theorem Memory.read_nil (n : Nat) : Memory.read [] n = Config.unwrittenByte := rfl

theorem Memory.read_cons (c : Host.Cell) (m : Memory) (n : Nat) :
    Memory.read (c :: m) n = if c.1 = n then c.2 else Memory.read m n := rfl

theorem Memory.read_of_not_listed {m : Memory} {n : Nat} (h : ∀ c ∈ m, c.1 ≠ n) :
    Memory.read m n = Config.unwrittenByte := by
  induction m with
  | nil => rfl
  | cons c m ih =>
    rw [read_cons, if_neg (h c (by simp)), ih fun d hd => h d (List.mem_cons_of_mem _ hd)]

theorem Memory.read_filter_same (m : Memory) (n : Nat) :
    Memory.read (List.filter (fun c => c.1 != n) m) n = Config.unwrittenByte :=
  read_of_not_listed fun c hc => by simpa using (List.mem_filter.mp hc).2

theorem Memory.read_filter_other (m : Memory) {n k : Nat} (h : k ≠ n) :
    Memory.read (List.filter (fun c => c.1 != n) m) k = Memory.read m k := by
  induction m with
  | nil => rfl
  | cons c m ih =>
    by_cases hc : c.1 = n
    · rw [List.filter_cons_of_neg (by simp [hc]), ih, read_cons, if_neg (by omega)]
    · rw [List.filter_cons_of_pos (by simp [hc]), read_cons, read_cons, ih]

theorem Memory.read_insert_other (m : Memory) {n k : Nat} (v : Byte) (h : k ≠ n) :
    Memory.read (Memory.insert m n v) k = Memory.read m k := by
  induction m with
  | nil => rw [insert, read_cons, if_neg (by simpa using h.symm)]
  | cons c m ih =>
    rw [insert]
    split
    · rw [read_cons, if_neg (by simpa using h.symm)]
    · rw [read_cons, read_cons, ih]

theorem Memory.read_insert_same {m : Memory} {n : Nat} (v : Byte) (h : ∀ c ∈ m, c.1 ≠ n) :
    Memory.read (Memory.insert m n v) n = v := by
  induction m with
  | nil => rw [insert, read_cons, if_pos rfl]
  | cons c m ih =>
    rw [insert]
    split
    · rw [read_cons, if_pos rfl]
    · rw [read_cons, if_neg (h c (by simp)), ih fun d hd => h d (List.mem_cons_of_mem _ hd)]

/-- A read after a write to the same address gives the value written, in every memory. -/
@[simp] theorem Memory.read_write_same (m : Memory) (n : Nat) (v : Byte) : (Memory.write m n v).read n = v := by
  simp only [write]
  split
  · next h => rw [read_filter_same, h]
  · exact read_insert_same v fun c hc => by simpa using (List.mem_filter.mp hc).2

/-- A write leaves every other address alone, in every memory. -/
theorem Memory.read_write_other (m : Memory) {n k : Nat} (v : Byte) (h : k ≠ n) :
    (Memory.write m n v).read k = m.read k := by
  simp only [write]
  split
  · exact read_filter_other m h
  · rw [read_insert_other _ v h, read_filter_other m h]

theorem Memory.read_write (m : Memory) (n k : Nat) (v : Byte) :
    (Memory.write m n v).read k = if k = n then v else m.read k := by
  split
  · next h => rw [h, read_write_same]
  · next h => exact read_write_other m v h

theorem Memory.wf_cons (c : Host.Cell) (m : Memory) :
    Memory.wf (c :: m) = true ↔ c.2 ≠ Config.unwrittenByte ∧ (∀ d ∈ m, c.1 < d.1) ∧ Memory.wf m = true := by
  simp [wf, and_assoc]

theorem Memory.wf_filter {m : Memory} (p : Host.Cell → Bool) (h : Memory.wf m = true) :
    Memory.wf (List.filter p m) = true := by
  induction m with
  | nil => rfl
  | cons c m ih =>
    obtain ⟨h1, h2, h3⟩ := (wf_cons c m).mp h
    rw [List.filter_cons]
    split
    · exact (wf_cons _ _).mpr ⟨h1, fun d hd => h2 d (List.mem_of_mem_filter hd), ih h3⟩
    · exact ih h3

theorem Memory.mem_insert {m : Memory} {n : Nat} {v : Byte} {d : Host.Cell} :
    d ∈ Memory.insert m n v ↔ d = (n, v) ∨ d ∈ m := by
  induction m with
  | nil => simp [insert]
  | cons c m ih =>
    rw [insert]
    split
    · simp
    · simp only [List.mem_cons, ih]; tauto

theorem Memory.wf_insert {m : Memory} {n : Nat} {v : Byte} (h : Memory.wf m = true) (hn : ∀ c ∈ m, c.1 ≠ n)
    (hv : v ≠ Config.unwrittenByte) : Memory.wf (Memory.insert m n v) = true := by
  induction m with
  | nil => exact (wf_cons _ _).mpr ⟨hv, by simp, rfl⟩
  | cons c m ih =>
    obtain ⟨h1, h2, h3⟩ := (wf_cons c m).mp h
    rw [insert]
    split
    · next hlt =>
      refine (wf_cons _ _).mpr ⟨hv, fun d hd => ?_, h⟩
      rcases List.mem_cons.mp hd with rfl | hd
      · exact hlt
      · exact lt_trans hlt (h2 d hd)
    · next hlt =>
      have hc : c.1 < n := lt_of_le_of_ne (not_lt.mp hlt) (hn c (by simp))
      refine (wf_cons _ _).mpr ⟨h1, fun d hd => ?_, ih h3 fun d hd => hn d (List.mem_cons_of_mem _ hd)⟩
      rcases mem_insert.mp hd with rfl | hd
      · exact hc
      · exact h2 d hd

/-- Every write keeps the canonical form. -/
theorem Memory.wf_write {m : Memory} (n : Nat) (v : Byte) (h : Memory.wf m = true) :
    (Memory.write m n v).wf = true := by
  simp only [write]
  split
  · exact wf_filter _ h
  · next hv => exact wf_insert (wf_filter _ h) (fun c hc => by simpa using (List.mem_filter.mp hc).2) hv

/-- Every write below a bound keeps the memory below it. -/
theorem Memory.below_write {m : Memory} {n bound : Nat} (v : Byte) (h : Memory.below m bound = true)
    (hn : n < bound) : (Memory.write m n v).below bound = true := by
  simp only [below, List.all_eq_true, decide_eq_true_eq] at h ⊢
  intro c hc
  simp only [write] at hc
  split at hc
  · exact h c (List.mem_of_mem_filter hc)
  · rcases mem_insert.mp hc with rfl | hc
    · exact hn
    · exact h c (List.mem_of_mem_filter hc)

end Sys2Proof.Machine
end

