-- ==== Sys2Proof/Laws/State.lean ====
section
/-! SUPPORT. One lemma per field per update of the state, so that no later proof unfolds a record update. -/

namespace Sys2Proof.Machine

variable (s : State)

@[simp] theorem State.setA_a (v : Byte) : (s.setA v).a = v := rfl
@[simp] theorem State.setA_x (v : Byte) : (s.setA v).x = s.x := rfl
@[simp] theorem State.setA_y (v : Byte) : (s.setA v).y = s.y := rfl
@[simp] theorem State.setA_sp (v : Byte) : (s.setA v).sp = s.sp := rfl
@[simp] theorem State.setA_pc (v : Byte) : (s.setA v).pc = s.pc := rfl
@[simp] theorem State.setA_p (v : Byte) : (s.setA v).p = s.p := rfl
@[simp] theorem State.setA_mem (v : Byte) : (s.setA v).mem = s.mem := rfl
@[simp] theorem State.setA_nmiPending (v : Byte) : (s.setA v).nmiPending = s.nmiPending := rfl
@[simp] theorem State.setA_oldI (v : Byte) : (s.setA v).oldI = s.oldI := rfl
@[simp] theorem State.setA_inReset (v : Byte) : (s.setA v).inReset = s.inReset := rfl
@[simp] theorem State.setA_cfg (v : Byte) : (s.setA v).cfg = s.cfg := rfl
@[simp] theorem State.setA_env (v : Byte) : (s.setA v).env = s.env := rfl

@[simp] theorem State.setX_a (v : Byte) : (s.setX v).a = s.a := rfl
@[simp] theorem State.setX_x (v : Byte) : (s.setX v).x = v := rfl
@[simp] theorem State.setX_y (v : Byte) : (s.setX v).y = s.y := rfl
@[simp] theorem State.setX_sp (v : Byte) : (s.setX v).sp = s.sp := rfl
@[simp] theorem State.setX_pc (v : Byte) : (s.setX v).pc = s.pc := rfl
@[simp] theorem State.setX_p (v : Byte) : (s.setX v).p = s.p := rfl
@[simp] theorem State.setX_mem (v : Byte) : (s.setX v).mem = s.mem := rfl
@[simp] theorem State.setX_nmiPending (v : Byte) : (s.setX v).nmiPending = s.nmiPending := rfl
@[simp] theorem State.setX_oldI (v : Byte) : (s.setX v).oldI = s.oldI := rfl
@[simp] theorem State.setX_inReset (v : Byte) : (s.setX v).inReset = s.inReset := rfl
@[simp] theorem State.setX_cfg (v : Byte) : (s.setX v).cfg = s.cfg := rfl
@[simp] theorem State.setX_env (v : Byte) : (s.setX v).env = s.env := rfl

@[simp] theorem State.setY_a (v : Byte) : (s.setY v).a = s.a := rfl
@[simp] theorem State.setY_x (v : Byte) : (s.setY v).x = s.x := rfl
@[simp] theorem State.setY_y (v : Byte) : (s.setY v).y = v := rfl
@[simp] theorem State.setY_sp (v : Byte) : (s.setY v).sp = s.sp := rfl
@[simp] theorem State.setY_pc (v : Byte) : (s.setY v).pc = s.pc := rfl
@[simp] theorem State.setY_p (v : Byte) : (s.setY v).p = s.p := rfl
@[simp] theorem State.setY_mem (v : Byte) : (s.setY v).mem = s.mem := rfl
@[simp] theorem State.setY_nmiPending (v : Byte) : (s.setY v).nmiPending = s.nmiPending := rfl
@[simp] theorem State.setY_oldI (v : Byte) : (s.setY v).oldI = s.oldI := rfl
@[simp] theorem State.setY_inReset (v : Byte) : (s.setY v).inReset = s.inReset := rfl
@[simp] theorem State.setY_cfg (v : Byte) : (s.setY v).cfg = s.cfg := rfl
@[simp] theorem State.setY_env (v : Byte) : (s.setY v).env = s.env := rfl

@[simp] theorem State.setSp_a (v : Byte) : (s.setSp v).a = s.a := rfl
@[simp] theorem State.setSp_x (v : Byte) : (s.setSp v).x = s.x := rfl
@[simp] theorem State.setSp_y (v : Byte) : (s.setSp v).y = s.y := rfl
@[simp] theorem State.setSp_sp (v : Byte) : (s.setSp v).sp = v := rfl
@[simp] theorem State.setSp_pc (v : Byte) : (s.setSp v).pc = s.pc := rfl
@[simp] theorem State.setSp_p (v : Byte) : (s.setSp v).p = s.p := rfl
@[simp] theorem State.setSp_mem (v : Byte) : (s.setSp v).mem = s.mem := rfl
@[simp] theorem State.setSp_nmiPending (v : Byte) : (s.setSp v).nmiPending = s.nmiPending := rfl
@[simp] theorem State.setSp_oldI (v : Byte) : (s.setSp v).oldI = s.oldI := rfl
@[simp] theorem State.setSp_inReset (v : Byte) : (s.setSp v).inReset = s.inReset := rfl
@[simp] theorem State.setSp_cfg (v : Byte) : (s.setSp v).cfg = s.cfg := rfl
@[simp] theorem State.setSp_env (v : Byte) : (s.setSp v).env = s.env := rfl

@[simp] theorem State.setPc_a (v : Word) : (s.setPc v).a = s.a := rfl
@[simp] theorem State.setPc_x (v : Word) : (s.setPc v).x = s.x := rfl
@[simp] theorem State.setPc_y (v : Word) : (s.setPc v).y = s.y := rfl
@[simp] theorem State.setPc_sp (v : Word) : (s.setPc v).sp = s.sp := rfl
@[simp] theorem State.setPc_pc (v : Word) : (s.setPc v).pc = v := rfl
@[simp] theorem State.setPc_p (v : Word) : (s.setPc v).p = s.p := rfl
@[simp] theorem State.setPc_mem (v : Word) : (s.setPc v).mem = s.mem := rfl
@[simp] theorem State.setPc_nmiPending (v : Word) : (s.setPc v).nmiPending = s.nmiPending := rfl
@[simp] theorem State.setPc_oldI (v : Word) : (s.setPc v).oldI = s.oldI := rfl
@[simp] theorem State.setPc_inReset (v : Word) : (s.setPc v).inReset = s.inReset := rfl
@[simp] theorem State.setPc_cfg (v : Word) : (s.setPc v).cfg = s.cfg := rfl
@[simp] theorem State.setPc_env (v : Word) : (s.setPc v).env = s.env := rfl

@[simp] theorem State.setP_a (v : Flags) : (s.setP v).a = s.a := rfl
@[simp] theorem State.setP_x (v : Flags) : (s.setP v).x = s.x := rfl
@[simp] theorem State.setP_y (v : Flags) : (s.setP v).y = s.y := rfl
@[simp] theorem State.setP_sp (v : Flags) : (s.setP v).sp = s.sp := rfl
@[simp] theorem State.setP_pc (v : Flags) : (s.setP v).pc = s.pc := rfl
@[simp] theorem State.setP_p (v : Flags) : (s.setP v).p = v := rfl
@[simp] theorem State.setP_mem (v : Flags) : (s.setP v).mem = s.mem := rfl
@[simp] theorem State.setP_nmiPending (v : Flags) : (s.setP v).nmiPending = s.nmiPending := rfl
@[simp] theorem State.setP_oldI (v : Flags) : (s.setP v).oldI = s.oldI := rfl
@[simp] theorem State.setP_inReset (v : Flags) : (s.setP v).inReset = s.inReset := rfl
@[simp] theorem State.setP_cfg (v : Flags) : (s.setP v).cfg = s.cfg := rfl
@[simp] theorem State.setP_env (v : Flags) : (s.setP v).env = s.env := rfl

@[simp] theorem State.setMem_a (v : Memory) : (s.setMem v).a = s.a := rfl
@[simp] theorem State.setMem_x (v : Memory) : (s.setMem v).x = s.x := rfl
@[simp] theorem State.setMem_y (v : Memory) : (s.setMem v).y = s.y := rfl
@[simp] theorem State.setMem_sp (v : Memory) : (s.setMem v).sp = s.sp := rfl
@[simp] theorem State.setMem_pc (v : Memory) : (s.setMem v).pc = s.pc := rfl
@[simp] theorem State.setMem_p (v : Memory) : (s.setMem v).p = s.p := rfl
@[simp] theorem State.setMem_mem (v : Memory) : (s.setMem v).mem = v := rfl
@[simp] theorem State.setMem_nmiPending (v : Memory) : (s.setMem v).nmiPending = s.nmiPending := rfl
@[simp] theorem State.setMem_oldI (v : Memory) : (s.setMem v).oldI = s.oldI := rfl
@[simp] theorem State.setMem_inReset (v : Memory) : (s.setMem v).inReset = s.inReset := rfl
@[simp] theorem State.setMem_cfg (v : Memory) : (s.setMem v).cfg = s.cfg := rfl
@[simp] theorem State.setMem_env (v : Memory) : (s.setMem v).env = s.env := rfl

@[simp] theorem State.setNmiPending_a (v : Bool) : (s.setNmiPending v).a = s.a := rfl
@[simp] theorem State.setNmiPending_x (v : Bool) : (s.setNmiPending v).x = s.x := rfl
@[simp] theorem State.setNmiPending_y (v : Bool) : (s.setNmiPending v).y = s.y := rfl
@[simp] theorem State.setNmiPending_sp (v : Bool) : (s.setNmiPending v).sp = s.sp := rfl
@[simp] theorem State.setNmiPending_pc (v : Bool) : (s.setNmiPending v).pc = s.pc := rfl
@[simp] theorem State.setNmiPending_p (v : Bool) : (s.setNmiPending v).p = s.p := rfl
@[simp] theorem State.setNmiPending_mem (v : Bool) : (s.setNmiPending v).mem = s.mem := rfl
@[simp] theorem State.setNmiPending_nmiPending (v : Bool) : (s.setNmiPending v).nmiPending = v := rfl
@[simp] theorem State.setNmiPending_oldI (v : Bool) : (s.setNmiPending v).oldI = s.oldI := rfl
@[simp] theorem State.setNmiPending_inReset (v : Bool) : (s.setNmiPending v).inReset = s.inReset := rfl
@[simp] theorem State.setNmiPending_cfg (v : Bool) : (s.setNmiPending v).cfg = s.cfg := rfl
@[simp] theorem State.setNmiPending_env (v : Bool) : (s.setNmiPending v).env = s.env := rfl

@[simp] theorem State.setOldI_a (v : Option Bool) : (s.setOldI v).a = s.a := rfl
@[simp] theorem State.setOldI_x (v : Option Bool) : (s.setOldI v).x = s.x := rfl
@[simp] theorem State.setOldI_y (v : Option Bool) : (s.setOldI v).y = s.y := rfl
@[simp] theorem State.setOldI_sp (v : Option Bool) : (s.setOldI v).sp = s.sp := rfl
@[simp] theorem State.setOldI_pc (v : Option Bool) : (s.setOldI v).pc = s.pc := rfl
@[simp] theorem State.setOldI_p (v : Option Bool) : (s.setOldI v).p = s.p := rfl
@[simp] theorem State.setOldI_mem (v : Option Bool) : (s.setOldI v).mem = s.mem := rfl
@[simp] theorem State.setOldI_nmiPending (v : Option Bool) : (s.setOldI v).nmiPending = s.nmiPending := rfl
@[simp] theorem State.setOldI_oldI (v : Option Bool) : (s.setOldI v).oldI = v := rfl
@[simp] theorem State.setOldI_inReset (v : Option Bool) : (s.setOldI v).inReset = s.inReset := rfl
@[simp] theorem State.setOldI_cfg (v : Option Bool) : (s.setOldI v).cfg = s.cfg := rfl
@[simp] theorem State.setOldI_env (v : Option Bool) : (s.setOldI v).env = s.env := rfl

@[simp] theorem State.setInReset_a (v : Bool) : (s.setInReset v).a = s.a := rfl
@[simp] theorem State.setInReset_x (v : Bool) : (s.setInReset v).x = s.x := rfl
@[simp] theorem State.setInReset_y (v : Bool) : (s.setInReset v).y = s.y := rfl
@[simp] theorem State.setInReset_sp (v : Bool) : (s.setInReset v).sp = s.sp := rfl
@[simp] theorem State.setInReset_pc (v : Bool) : (s.setInReset v).pc = s.pc := rfl
@[simp] theorem State.setInReset_p (v : Bool) : (s.setInReset v).p = s.p := rfl
@[simp] theorem State.setInReset_mem (v : Bool) : (s.setInReset v).mem = s.mem := rfl
@[simp] theorem State.setInReset_nmiPending (v : Bool) : (s.setInReset v).nmiPending = s.nmiPending := rfl
@[simp] theorem State.setInReset_oldI (v : Bool) : (s.setInReset v).oldI = s.oldI := rfl
@[simp] theorem State.setInReset_inReset (v : Bool) : (s.setInReset v).inReset = v := rfl
@[simp] theorem State.setInReset_cfg (v : Bool) : (s.setInReset v).cfg = s.cfg := rfl
@[simp] theorem State.setInReset_env (v : Bool) : (s.setInReset v).env = s.env := rfl

@[simp] theorem State.setEnv_a (v : Env) : (s.setEnv v).a = s.a := rfl
@[simp] theorem State.setEnv_x (v : Env) : (s.setEnv v).x = s.x := rfl
@[simp] theorem State.setEnv_y (v : Env) : (s.setEnv v).y = s.y := rfl
@[simp] theorem State.setEnv_sp (v : Env) : (s.setEnv v).sp = s.sp := rfl
@[simp] theorem State.setEnv_pc (v : Env) : (s.setEnv v).pc = s.pc := rfl
@[simp] theorem State.setEnv_p (v : Env) : (s.setEnv v).p = s.p := rfl
@[simp] theorem State.setEnv_mem (v : Env) : (s.setEnv v).mem = s.mem := rfl
@[simp] theorem State.setEnv_nmiPending (v : Env) : (s.setEnv v).nmiPending = s.nmiPending := rfl
@[simp] theorem State.setEnv_oldI (v : Env) : (s.setEnv v).oldI = s.oldI := rfl
@[simp] theorem State.setEnv_inReset (v : Env) : (s.setEnv v).inReset = s.inReset := rfl
@[simp] theorem State.setEnv_cfg (v : Env) : (s.setEnv v).cfg = s.cfg := rfl
@[simp] theorem State.setEnv_env (v : Env) : (s.setEnv v).env = v := rfl

end Sys2Proof.Machine
end

