-- ==== Sys2Proof/Laws/Ops.lean ====
section
/-! SUPPORT. What the shared operations can do, said once: a bus cycle leaves the processor alone, and a read cycle
leaves memory alone unless a DMA master acts in it. -/

namespace Sys2Proof.Machine

/-- The processor and the pins are the same in both states: all but memory, the DMA schedule, the devices' bytes, the
trace and the counter of free values. -/
structure SameCpu (s t : State) : Prop where
  a : t.a = s.a
  x : t.x = s.x
  y : t.y = s.y
  sp : t.sp = s.sp
  pc : t.pc = s.pc
  p : t.p = s.p
  nmiPending : t.nmiPending = s.nmiPending
  oldI : t.oldI = s.oldI
  inReset : t.inReset = s.inReset
  cfg : t.cfg = s.cfg
  samples : t.env.samples = s.env.samples
  now : t.env.now = s.env.now

/-- `t` comes from `s` by read cycles alone. -/
structure ReadsOnly (s t : State) : Prop extends SameCpu s t where
  mem : s.NoDma → t.mem = s.mem
  noDma : s.NoDma → t.NoDma

theorem SameCpu.refl (s : State) : SameCpu s s := by constructor <;> rfl

theorem SameCpu.trans {s t u : State} (h : SameCpu s t) (k : SameCpu t u) : SameCpu s u where
  a := k.a.trans h.a
  x := k.x.trans h.x
  y := k.y.trans h.y
  sp := k.sp.trans h.sp
  pc := k.pc.trans h.pc
  p := k.p.trans h.p
  nmiPending := k.nmiPending.trans h.nmiPending
  oldI := k.oldI.trans h.oldI
  inReset := k.inReset.trans h.inReset
  cfg := k.cfg.trans h.cfg
  samples := k.samples.trans h.samples
  now := k.now.trans h.now

theorem ReadsOnly.refl (s : State) : ReadsOnly s s := ⟨.refl s, fun _ => rfl, id⟩

theorem ReadsOnly.trans {s t u : State} (h : ReadsOnly s t) (k : ReadsOnly t u) : ReadsOnly s u :=
  ⟨h.toSameCpu.trans k.toSameCpu, fun d => (k.mem (h.noDma d)).trans (h.mem d), fun d => k.noDma (h.noDma d)⟩

/-- Where a read cycle has been, an address is of the kind it was. -/
theorem SameCpu.kindOf {s t : State} (h : SameCpu s t) (addr : Word) : t.kindOf addr = s.kindOf addr := by
  simp only [State.kindOf, h.cfg]

/-- Read cycles leave every byte of memory alone when no DMA master acts. -/
theorem ReadsOnly.peek {s t : State} (h : ReadsOnly s t) (d : s.NoDma) (addr : Word) : t.peek addr = s.peek addr := by
  simp only [State.peek, h.cfg, h.mem d]

/-- Read cycles leave the platform plain. -/
theorem ReadsOnly.plainMemory {s t : State} (h : ReadsOnly s t) (d : s.PlainMemory) : t.PlainMemory :=
  ⟨h.noDma d.1, fun addr => by simpa only [State.IsMemory, h.kindOf] using d.2 addr⟩

/-! ## Writing a byte -/

theorem poke_eq (s : State) (n : Nat) (v : Byte) : s.poke n v = s.setMem (s.poke n v).mem := by
  unfold State.poke; split <;> rfl

theorem poke_sameCpu (s : State) (n : Nat) (v : Byte) : SameCpu s (s.poke n v) := by
  rw [poke_eq]; constructor <;> rfl

@[simp] theorem poke_env (s : State) (n : Nat) (v : Byte) : (s.poke n v).env = s.env := by
  rw [poke_eq]; rfl

/-- What every byte of memory is after a write: the written one at a writable address, and all others as before. -/
theorem poke_read (s : State) (n k : Nat) (v : Byte) :
    (s.poke n v).mem.read k = if k = n ∧ kindAt s.cfg.map n = .ram then v else s.mem.read k := by
  unfold State.poke
  by_cases h : kindAt s.cfg.map n = .ram <;> simp [h, Memory.read_write]

theorem dmaWrite_sameCpu (s : State) (w : DmaWrite) : SameCpu s (s.dmaWrite w) := poke_sameCpu _ _ _

@[simp] theorem dmaWrite_env (s : State) (w : DmaWrite) : (s.dmaWrite w).env = s.env := poke_env _ _ _

theorem dmaWrites_sameCpu (ws : List DmaWrite) (s : State) : SameCpu s (ws.foldl State.dmaWrite s) := by
  induction ws generalizing s with
  | nil => exact .refl s
  | cons w ws ih => exact (dmaWrite_sameCpu s w).trans (ih _)

theorem dmaWrites_env (ws : List DmaWrite) (s : State) : (ws.foldl State.dmaWrite s).env = s.env := by
  induction ws generalizing s with
  | nil => rfl
  | cons w ws ih => rw [List.foldl_cons, ih, dmaWrite_env]

/-! ## Bus cycles -/

/-- Without a DMA master a read cycle changes nothing before the byte is taken. -/
@[simp] theorem dmaCycle_of_noDma {s : State} (h : s.NoDma) : dmaCycle s = s := by
  unfold dmaCycle; rw [h]; split <;> simp_all

theorem dmaCycle_sameCpu (s : State) : SameCpu s (dmaCycle s) := by
  unfold dmaCycle
  split
  · next ws later _ _ =>
    refine (dmaWrites_sameCpu ws s).trans ?_
    constructor <;> rfl
  · exact .refl s

theorem Env.afterRead_samples (e : Env) (k : RegionKind) : (e.afterRead k).samples = e.samples := by
  cases k with
  | device => simp only [afterRead]; split <;> rfl
  | _ => rfl

theorem Env.afterRead_now (e : Env) (k : RegionKind) : (e.afterRead k).now = e.now := by
  cases k with
  | device => simp only [afterRead]; split <;> rfl
  | _ => rfl

theorem Env.afterRead_dma (e : Env) (k : RegionKind) : (e.afterRead k).dma = e.dma := by
  cases k with
  | device => simp only [afterRead]; split <;> rfl
  | _ => rfl

theorem Env.afterRead_trace (e : Env) (k : RegionKind) : (e.afterRead k).trace = e.trace := by
  cases k with
  | device => simp only [afterRead]; split <;> rfl
  | _ => rfl

/-- All a read cycle can do. -/
theorem busRead_readsOnly (opcode : Bool) (addr : Word) (s : State) : ReadsOnly s (busRead opcode addr s).2 := by
  have hd := dmaCycle_sameCpu s
  refine ⟨hd.trans ?_, fun h => ?_, fun h => ?_⟩
  · constructor <;> first | rfl | exact Env.afterRead_samples _ _ | exact Env.afterRead_now _ _
  · show (dmaCycle s).mem = s.mem
    rw [dmaCycle_of_noDma h]
  · show ((dmaCycle s).env.afterRead _).dma = []
    rw [Env.afterRead_dma, dmaCycle_of_noDma h, h]

theorem memRead_readsOnly (addr : Word) (s : State) : ReadsOnly s (memRead addr s).2 := busRead_readsOnly _ _ _

theorem discardRead_readsOnly (addr : Word) (s : State) : ReadsOnly s (discardRead addr s) := busRead_readsOnly _ _ _

/-- A read of memory returns the byte it holds (20_memory.md R57). -/
theorem busRead_memory {addr : Word} {s : State} (opcode : Bool) (hd : s.NoDma) (hm : s.IsMemory addr) :
    (busRead opcode addr s).1 = s.peek addr := by
  show (dmaCycle s).busByte addr = _
  rw [dmaCycle_of_noDma hd, State.busByte]
  rcases hm with h | h <;> rw [h]

/-- All that a read cycle of memory does, with no DMA master: it is added to the trace (20_memory.md R54). -/
theorem busRead_memory_eq {addr : Word} {s : State} (opcode : Bool) (hd : s.NoDma) (hm : s.IsMemory addr) :
    busRead opcode addr s = (s.peek addr, s.setEnv (s.env.record
      { addr := busAddr s.cfg.member addr, write := false, data := s.peek addr,
        sync := opcode && hasSync s.cfg.member })) := by
  have hb : s.busByte addr = s.peek addr := by rw [State.busByte]; rcases hm with h | h <;> rw [h]
  have he : s.env.afterRead (s.kindOf addr) = s.env := by rcases hm with h | h <;> rw [h] <;> rfl
  simp only [busRead, dmaCycle_of_noDma hd, hb, he]

theorem memRead_memory {addr : Word} {s : State} (hd : s.NoDma) (hm : s.IsMemory addr) :
    (memRead addr s).1 = s.peek addr := busRead_memory _ hd hm

theorem memRead_plain {s : State} (h : s.PlainMemory) (addr : Word) : (memRead addr s).1 = s.peek addr :=
  memRead_memory h.1 (h.2 addr)

theorem dmaCycle_trace (s : State) : (dmaCycle s).env.trace = s.env.trace := by
  unfold dmaCycle
  split
  · next ws later _ _ =>
    show (ws.foldl State.dmaWrite s).env.trace = s.env.trace
    rw [dmaWrites_env]
  · rfl

/-- A read cycle is one cycle of the trace (20_memory.md R54). -/
theorem busRead_trace (opcode : Bool) (addr : Word) (s : State) :
    (busRead opcode addr s).2.env.trace =
      s.env.trace ++ [{ addr := busAddr s.cfg.member addr, write := false, data := (busRead opcode addr s).1,
                        sync := opcode && hasSync s.cfg.member }] := by
  simp only [busRead, State.setEnv, Env.record, Env.afterRead_trace, dmaCycle_trace, (dmaCycle_sameCpu s).cfg]

theorem memRead_trace (addr : Word) (s : State) :
    (memRead addr s).2.env.trace =
      s.env.trace ++ [{ addr := busAddr s.cfg.member addr, write := false, data := (memRead addr s).1,
                        sync := false }] := by
  simp only [memRead, busRead_trace, Bool.false_and]

/-- All a write cycle can do to the processor: nothing. -/
theorem memWrite_sameCpu (addr : Word) (v : Byte) (s : State) : SameCpu s (memWrite addr v s) := by
  have h := poke_sameCpu s (busAddr s.cfg.member addr) v
  exact h.trans ⟨rfl, rfl, rfl, rfl, rfl, rfl, rfl, rfl, rfl, rfl, rfl, rfl⟩

theorem memWrite_noDma {addr : Word} {v : Byte} {s : State} (h : s.NoDma) : (memWrite addr v s).NoDma := by
  show ((s.poke _ v).env.record _).dma = []
  rw [poke_env]; exact h

/-- A write cycle is one cycle of the trace (20_memory.md R54). -/
theorem memWrite_trace (addr : Word) (v : Byte) (s : State) :
    (memWrite addr v s).env.trace =
      s.env.trace ++ [{ addr := busAddr s.cfg.member addr, write := true, data := v, sync := false }] := by
  simp only [memWrite, State.setEnv, Env.record, poke_env]

/-- What every byte of memory is after a write cycle. -/
theorem memWrite_peek (addr b : Word) (v : Byte) (s : State) :
    (memWrite addr v s).peek b =
      if busAddr s.cfg.member b = busAddr s.cfg.member addr ∧ s.kindOf addr = .ram then v else s.peek b := by
  show (s.poke _ v).mem.read (busAddr (s.poke _ v).cfg.member b) = _
  rw [(poke_sameCpu _ _ _).cfg, poke_read]; rfl

/-- A write to RAM is read back (20_memory.md R57). -/
theorem memWrite_peek_same {addr : Word} {v : Byte} {s : State} (h : s.IsRam addr) :
    (memWrite addr v s).peek addr = v := by
  rw [memWrite_peek, if_pos ⟨rfl, h⟩]

/-- A write leaves every byte at another bus address alone. -/
theorem memWrite_peek_other {addr b : Word} {v : Byte} {s : State}
    (h : busAddr s.cfg.member b ≠ busAddr s.cfg.member addr) : (memWrite addr v s).peek b = s.peek b := by
  rw [memWrite_peek, if_neg fun hb => h hb.1]

/-! ## The fields the cycles leave alone, for simp -/

@[simp] theorem memRead_a (addr : Word) (s : State) : (memRead addr s).2.a = s.a := (memRead_readsOnly addr s).a
@[simp] theorem memRead_x (addr : Word) (s : State) : (memRead addr s).2.x = s.x := (memRead_readsOnly addr s).x
@[simp] theorem memRead_y (addr : Word) (s : State) : (memRead addr s).2.y = s.y := (memRead_readsOnly addr s).y
@[simp] theorem memRead_sp (addr : Word) (s : State) : (memRead addr s).2.sp = s.sp := (memRead_readsOnly addr s).sp
@[simp] theorem memRead_pc (addr : Word) (s : State) : (memRead addr s).2.pc = s.pc := (memRead_readsOnly addr s).pc
@[simp] theorem memRead_p (addr : Word) (s : State) : (memRead addr s).2.p = s.p := (memRead_readsOnly addr s).p
@[simp] theorem memRead_nmiPending (addr : Word) (s : State) : (memRead addr s).2.nmiPending = s.nmiPending := (memRead_readsOnly addr s).nmiPending
@[simp] theorem memRead_oldI (addr : Word) (s : State) : (memRead addr s).2.oldI = s.oldI := (memRead_readsOnly addr s).oldI
@[simp] theorem memRead_inReset (addr : Word) (s : State) : (memRead addr s).2.inReset = s.inReset := (memRead_readsOnly addr s).inReset
@[simp] theorem memRead_cfg (addr : Word) (s : State) : (memRead addr s).2.cfg = s.cfg := (memRead_readsOnly addr s).cfg
@[simp] theorem memRead_env_samples (addr : Word) (s : State) : (memRead addr s).2.env.samples = s.env.samples := (memRead_readsOnly addr s).samples
@[simp] theorem memRead_env_now (addr : Word) (s : State) : (memRead addr s).2.env.now = s.env.now := (memRead_readsOnly addr s).now

@[simp] theorem discardRead_a (addr : Word) (s : State) : (discardRead addr s).a = s.a := (discardRead_readsOnly addr s).a
@[simp] theorem discardRead_x (addr : Word) (s : State) : (discardRead addr s).x = s.x := (discardRead_readsOnly addr s).x
@[simp] theorem discardRead_y (addr : Word) (s : State) : (discardRead addr s).y = s.y := (discardRead_readsOnly addr s).y
@[simp] theorem discardRead_sp (addr : Word) (s : State) : (discardRead addr s).sp = s.sp := (discardRead_readsOnly addr s).sp
@[simp] theorem discardRead_pc (addr : Word) (s : State) : (discardRead addr s).pc = s.pc := (discardRead_readsOnly addr s).pc
@[simp] theorem discardRead_p (addr : Word) (s : State) : (discardRead addr s).p = s.p := (discardRead_readsOnly addr s).p
@[simp] theorem discardRead_nmiPending (addr : Word) (s : State) : (discardRead addr s).nmiPending = s.nmiPending := (discardRead_readsOnly addr s).nmiPending
@[simp] theorem discardRead_oldI (addr : Word) (s : State) : (discardRead addr s).oldI = s.oldI := (discardRead_readsOnly addr s).oldI
@[simp] theorem discardRead_inReset (addr : Word) (s : State) : (discardRead addr s).inReset = s.inReset := (discardRead_readsOnly addr s).inReset
@[simp] theorem discardRead_cfg (addr : Word) (s : State) : (discardRead addr s).cfg = s.cfg := (discardRead_readsOnly addr s).cfg
@[simp] theorem discardRead_env_samples (addr : Word) (s : State) : (discardRead addr s).env.samples = s.env.samples := (discardRead_readsOnly addr s).samples
@[simp] theorem discardRead_env_now (addr : Word) (s : State) : (discardRead addr s).env.now = s.env.now := (discardRead_readsOnly addr s).now

@[simp] theorem memWrite_a (addr : Word) (v : Byte) (s : State) : (memWrite addr v s).a = s.a := (memWrite_sameCpu addr v s).a
@[simp] theorem memWrite_x (addr : Word) (v : Byte) (s : State) : (memWrite addr v s).x = s.x := (memWrite_sameCpu addr v s).x
@[simp] theorem memWrite_y (addr : Word) (v : Byte) (s : State) : (memWrite addr v s).y = s.y := (memWrite_sameCpu addr v s).y
@[simp] theorem memWrite_sp (addr : Word) (v : Byte) (s : State) : (memWrite addr v s).sp = s.sp := (memWrite_sameCpu addr v s).sp
@[simp] theorem memWrite_pc (addr : Word) (v : Byte) (s : State) : (memWrite addr v s).pc = s.pc := (memWrite_sameCpu addr v s).pc
@[simp] theorem memWrite_p (addr : Word) (v : Byte) (s : State) : (memWrite addr v s).p = s.p := (memWrite_sameCpu addr v s).p
@[simp] theorem memWrite_nmiPending (addr : Word) (v : Byte) (s : State) : (memWrite addr v s).nmiPending = s.nmiPending := (memWrite_sameCpu addr v s).nmiPending
@[simp] theorem memWrite_oldI (addr : Word) (v : Byte) (s : State) : (memWrite addr v s).oldI = s.oldI := (memWrite_sameCpu addr v s).oldI
@[simp] theorem memWrite_inReset (addr : Word) (v : Byte) (s : State) : (memWrite addr v s).inReset = s.inReset := (memWrite_sameCpu addr v s).inReset
@[simp] theorem memWrite_cfg (addr : Word) (v : Byte) (s : State) : (memWrite addr v s).cfg = s.cfg := (memWrite_sameCpu addr v s).cfg
@[simp] theorem memWrite_env_samples (addr : Word) (v : Byte) (s : State) : (memWrite addr v s).env.samples = s.env.samples := (memWrite_sameCpu addr v s).samples
@[simp] theorem memWrite_env_now (addr : Word) (v : Byte) (s : State) : (memWrite addr v s).env.now = s.env.now := (memWrite_sameCpu addr v s).now

/-! ## Addresses -/

/-- A bus address is within the address pins (20_memory.md R51). -/
theorem busAddr_lt (m : Member) (addr : Word) : busAddr m addr < 2 ^ addressPins m :=
  Nat.mod_lt _ (Nat.two_pow_pos _)

end Sys2Proof.Machine
end

