-- ==== Sys2Proof/Laws/Operands.lean ====
section
/-! SUPPORT. What the addressing modes can do, said once: they make read cycles and find an address; a read, a store and
a read-modify-write at that address. -/

namespace Sys2Proof.Machine

/-! ## The processor as a claim sees it -/

/-- Where the processor is the same in both states, a claim sees the same. -/
theorem SameCpu.cpu {s t : State} (h : SameCpu s t) : t.cpu = s.cpu := by
  simp only [State.cpu, h.a, h.x, h.y, h.sp, h.pc, h.p, h.nmiPending, h.oldI, h.inReset, h.cfg, h.samples, h.now]

@[simp] theorem State.setA_cpu (s : State) (v : Byte) : (s.setA v).cpu = { s.cpu with a := v } := rfl
@[simp] theorem State.setX_cpu (s : State) (v : Byte) : (s.setX v).cpu = { s.cpu with x := v } := rfl
@[simp] theorem State.setY_cpu (s : State) (v : Byte) : (s.setY v).cpu = { s.cpu with y := v } := rfl
@[simp] theorem State.setSp_cpu (s : State) (v : Byte) : (s.setSp v).cpu = { s.cpu with sp := v } := rfl
@[simp] theorem State.setPc_cpu (s : State) (v : Word) : (s.setPc v).cpu = { s.cpu with pc := v } := rfl
@[simp] theorem State.setP_cpu (s : State) (v : Flags) : (s.setP v).cpu = { s.cpu with p := v } := rfl
@[simp] theorem State.setOldI_cpu (s : State) (v : Option Bool) : (s.setOldI v).cpu = { s.cpu with oldI := v } := rfl
@[simp] theorem State.setMem_cpu (s : State) (v : Memory) : (s.setMem v).cpu = s.cpu := rfl
@[simp] theorem State.setNmiPending_cpu (s : State) (v : Bool) :
    (s.setNmiPending v).cpu = { s.cpu with nmiPending := v } := rfl
@[simp] theorem State.setInReset_cpu (s : State) (v : Bool) :
    (s.setInReset v).cpu = { s.cpu with inReset := v } := rfl
@[simp] theorem State.useFree_cpu (s : State) (k : Nat) : (s.useFree k).cpu = s.cpu := rfl

@[simp] theorem memRead_cpu (addr : Word) (s : State) : (memRead addr s).2.cpu = s.cpu := (memRead_readsOnly _ _).cpu
@[simp] theorem busRead_cpu (opcode : Bool) (addr : Word) (s : State) : (busRead opcode addr s).2.cpu = s.cpu :=
  (busRead_readsOnly _ _ _).cpu
@[simp] theorem discardRead_cpu (addr : Word) (s : State) : (discardRead addr s).cpu = s.cpu :=
  (discardRead_readsOnly _ _).cpu
@[simp] theorem memWrite_cpu (addr : Word) (v : Byte) (s : State) : (memWrite addr v s).cpu = s.cpu :=
  (memWrite_sameCpu _ _ _).cpu

/-! What a byte of memory is does not depend on the registers. -/

@[simp] theorem State.setA_peek (s : State) (v : Byte) (addr : Word) : (s.setA v).peek addr = s.peek addr := rfl
@[simp] theorem State.setX_peek (s : State) (v : Byte) (addr : Word) : (s.setX v).peek addr = s.peek addr := rfl
@[simp] theorem State.setY_peek (s : State) (v : Byte) (addr : Word) : (s.setY v).peek addr = s.peek addr := rfl
@[simp] theorem State.setSp_peek (s : State) (v : Byte) (addr : Word) : (s.setSp v).peek addr = s.peek addr := rfl
@[simp] theorem State.setPc_peek (s : State) (v addr : Word) : (s.setPc v).peek addr = s.peek addr := rfl
@[simp] theorem State.setP_peek (s : State) (v : Flags) (addr : Word) : (s.setP v).peek addr = s.peek addr := rfl
@[simp] theorem State.setOldI_peek (s : State) (v : Option Bool) (addr : Word) :
    (s.setOldI v).peek addr = s.peek addr := rfl
@[simp] theorem State.setNmiPending_peek (s : State) (v : Bool) (addr : Word) :
    (s.setNmiPending v).peek addr = s.peek addr := rfl
@[simp] theorem State.setInReset_peek (s : State) (v : Bool) (addr : Word) :
    (s.setInReset v).peek addr = s.peek addr := rfl
@[simp] theorem State.setEnv_peek (s : State) (v : Env) (addr : Word) : (s.setEnv v).peek addr = s.peek addr := rfl
@[simp] theorem State.useFree_peek (s : State) (k : Nat) (addr : Word) : (s.useFree k).peek addr = s.peek addr := rfl

theorem SameCpu.isMemory {s t : State} (h : SameCpu s t) {addr : Word} : t.IsMemory addr ↔ s.IsMemory addr := by
  simp only [State.IsMemory, h.kindOf]

theorem SameCpu.isRam {s t : State} (h : SameCpu s t) {addr : Word} : t.IsRam addr ↔ s.IsRam addr := by
  simp only [State.IsRam, h.kindOf]

/-! ## Bytes and words -/

theorem loByte_toNat (w : Word) : (loByte w).toNat = w.toNat % 256 := by
  simp [loByte]

theorem hiByte_toNat (w : Word) : (hiByte w).toNat = w.toNat / 256 := by
  simp [hiByte, Nat.shiftRight_eq_div_pow]; omega

theorem joinBytes_toNat (hi lo : Byte) : (joinBytes hi lo).toNat = 256 * hi.toNat + lo.toNat := by
  have := Nat.shiftLeft_add_eq_or_of_lt lo.isLt hi.toNat
  rw [joinBytes, BitVec.toNat_append, ← this, Nat.shiftLeft_eq]; omega

@[simp] theorem joinBytes_hi_lo (w : Word) : joinBytes (hiByte w) (loByte w) = w := by
  apply BitVec.eq_of_toNat_eq
  rw [joinBytes_toNat, hiByte_toNat, loByte_toNat]; omega

@[simp] theorem hiByte_joinBytes (hi lo : Byte) : hiByte (joinBytes hi lo) = hi := by
  apply BitVec.eq_of_toNat_eq
  have := lo.isLt; have := hi.isLt
  rw [hiByte_toNat, joinBytes_toNat]; omega

@[simp] theorem loByte_joinBytes (hi lo : Byte) : loByte (joinBytes hi lo) = lo := by
  apply BitVec.eq_of_toNat_eq
  have := lo.isLt
  rw [loByte_toNat, joinBytes_toNat]; omega

theorem zext16_toNat (b : Byte) : (zext16 b).toNat = b.toNat := by
  have := b.isLt
  simp [zext16]; omega

/-- The stack's address as a number (10_state.md R23). -/
theorem stackAddr_toNat (sp : Byte) : (stackAddr sp).toNat = 256 + sp.toNat := by
  have := sp.isLt
  simp [stackAddr, zext16]; omega

theorem addressPins_cases (m : Member) : addressPins m = 12 ∨ addressPins m = 13 ∨ addressPins m = 16 := by
  cases m <;> simp [addressPins]

/-- The pins of every member show the stack's address whole (20_memory.md R51). -/
theorem busAddr_stackAddr (m : Member) (sp : Byte) : busAddr m (stackAddr sp) = 256 + sp.toNat := by
  have := sp.isLt
  simp only [busAddr, stackAddr_toNat]
  rcases addressPins_cases m with h | h | h <;> rw [h] <;> omega

/-- Two places of the stack are two bytes of memory. -/
theorem busAddr_stackAddr_inj (m : Member) {j k : Byte} : busAddr m (stackAddr j) = busAddr m (stackAddr k) ↔ j = k := by
  rw [busAddr_stackAddr, busAddr_stackAddr]
  constructor
  · intro h; apply BitVec.eq_of_toNat_eq; omega
  · rintro rfl; rfl

/-! ## Effective addresses -/

theorem zeroPagePointer_readsOnly (p : Byte) (s : State) : ReadsOnly s (zeroPagePointer p s).2 :=
  (memRead_readsOnly _ _).trans (memRead_readsOnly _ _)

/-- The pointer in page zero, read from memory (40_addressing_modes.md R110, R111). -/
theorem zeroPagePointer_memory {p : Byte} {s : State} (hd : s.NoDma) (hm : ∀ k : Byte, s.IsMemory (zext16 k)) :
    (zeroPagePointer p s).1 = joinBytes (s.peek (zext16 (p + 1))) (s.peek (zext16 p)) := by
  have h := memRead_readsOnly (zext16 p) s
  simp only [zeroPagePointer, memRead_memory hd (hm p),
    memRead_memory (h.noDma hd) ((h.toSameCpu.isMemory).mpr (hm (p + 1))), h.peek hd]

theorem indexedAddr_fst (acc : Access) (base : Word) (index : Byte) (s : State) :
    (indexedAddr acc base index s).1 = base + zext16 index := by cases acc <;> rfl

theorem indexedAddr_readsOnly (acc : Access) (base : Word) (index : Byte) (s : State) :
    ReadsOnly s (indexedAddr acc base index s).2 := by
  cases acc with
  | load =>
    simp only [indexedAddr]; split
    · exact discardRead_readsOnly _ _
    · exact .refl s
  | modify => exact discardRead_readsOnly _ _

/-- All that finding an operand can do: read cycles. -/
theorem effectiveAddr_readsOnly (acc : Access) (m : MemOperand) (s : State) : ReadsOnly s (effectiveAddr acc m s).2 := by
  cases m with
  | zp | abs => exact .refl s
  | zpX | zpY => exact discardRead_readsOnly _ _
  | absX | absY => exact indexedAddr_readsOnly _ _ _ _
  | indX => exact (discardRead_readsOnly _ _).trans (zeroPagePointer_readsOnly _ _)
  | indY => exact (zeroPagePointer_readsOnly _ _).trans (indexedAddr_readsOnly _ _ _ _)

/-! ## The operand of a load, a store, a read-modify-write -/

/-- All that reading an operand can do: read cycles. -/
theorem readOperand_readsOnly (m : MemOperand) (s : State) : ReadsOnly s (readOperand m s).2 :=
  (effectiveAddr_readsOnly _ _ _).trans (memRead_readsOnly _ _)

@[simp] theorem readOperand_cpu (m : MemOperand) (s : State) : (readOperand m s).2.cpu = s.cpu :=
  (readOperand_readsOnly m s).cpu
@[simp] theorem readOperand_a (m : MemOperand) (s : State) : (readOperand m s).2.a = s.a := (readOperand_readsOnly m s).a
@[simp] theorem readOperand_x (m : MemOperand) (s : State) : (readOperand m s).2.x = s.x := (readOperand_readsOnly m s).x
@[simp] theorem readOperand_y (m : MemOperand) (s : State) : (readOperand m s).2.y = s.y := (readOperand_readsOnly m s).y
@[simp] theorem readOperand_p (m : MemOperand) (s : State) : (readOperand m s).2.p = s.p := (readOperand_readsOnly m s).p
@[simp] theorem readOperand_sp (m : MemOperand) (s : State) : (readOperand m s).2.sp = s.sp :=
  (readOperand_readsOnly m s).sp
@[simp] theorem readOperand_pc (m : MemOperand) (s : State) : (readOperand m s).2.pc = s.pc :=
  (readOperand_readsOnly m s).pc

/-- All a store can do: the processor is as before, and a byte is the stored one at the effective address if that is
RAM, and as before elsewhere. -/
theorem storeOperand_sameCpu (m : MemOperand) (v : Byte) (s : State) : SameCpu s (storeOperand m v s) :=
  (effectiveAddr_readsOnly _ _ _).toSameCpu.trans (memWrite_sameCpu _ _ _)

theorem storeOperand_peek (m : MemOperand) (v : Byte) (s : State) (b : Word) :
    (storeOperand m v s).peek b =
      if busAddr s.cfg.member b = busAddr s.cfg.member (effectiveAddr .modify m s).1 ∧
          s.kindOf (effectiveAddr .modify m s).1 = .ram then v
      else (effectiveAddr .modify m s).2.peek b := by
  have h := (effectiveAddr_readsOnly .modify m s).toSameCpu
  simp only [storeOperand, memWrite_peek, h.cfg, h.kindOf]

/-- All a read-modify-write can do to the processor: it sets P. -/
theorem modifyOperand_cpu (m : MemOperand) (f : Byte → Flags → Byte × Flags) (s : State) :
    (modifyOperand m f s).cpu = { s.cpu with
      p := (f (memRead (effectiveAddr .modify m s).1 (effectiveAddr .modify m s).2).1 s.p).2 } := by
  simp only [modifyOperand, State.setP_cpu, memWrite_cpu, memRead_cpu, (effectiveAddr_readsOnly _ _ _).cpu]

/-- All a read-modify-write can do to memory: one byte is the result, if it is RAM. -/
theorem modifyOperand_peek (m : MemOperand) (f : Byte → Flags → Byte × Flags) (s : State) (b : Word) :
    (modifyOperand m f s).peek b =
      if busAddr s.cfg.member b = busAddr s.cfg.member (effectiveAddr .modify m s).1 ∧
          s.kindOf (effectiveAddr .modify m s).1 = .ram then
        (f (memRead (effectiveAddr .modify m s).1 (effectiveAddr .modify m s).2).1 s.p).1
      else (memRead (effectiveAddr .modify m s).1 (effectiveAddr .modify m s).2).2.peek b := by
  have h := (effectiveAddr_readsOnly .modify m s).toSameCpu.trans
    (memRead_readsOnly (effectiveAddr .modify m s).1 (effectiveAddr .modify m s).2).toSameCpu
  simp only [modifyOperand, State.setP_peek, memWrite_peek, (memWrite_sameCpu _ _ _).cfg,
    (memWrite_sameCpu _ _ _).kindOf, h.cfg, h.kindOf]
  split <;> rfl

/-! ## Jumps and branches -/

theorem jumpPointer_readsOnly (ptr : Word) (s : State) : ReadsOnly s (jumpPointer ptr s).2 :=
  (memRead_readsOnly _ _).trans (memRead_readsOnly _ _)

/-- The target of JMP (indirect), read from memory (40_addressing_modes.md R112). -/
theorem jumpPointer_memory {ptr : Word} {s : State} (hd : s.NoDma) (h0 : s.IsMemory ptr)
    (h1 : s.IsMemory (uncarried ptr 1)) :
    (jumpPointer ptr s).1 = joinBytes (s.peek (uncarried ptr 1)) (s.peek ptr) := by
  have h := memRead_readsOnly ptr s
  simp only [jumpPointer, memRead_memory hd h0, memRead_memory (h.noDma hd) (h.toSameCpu.isMemory.mpr h1), h.peek hd]

/-- The address with the right low byte and the base's high byte, as a number. -/
theorem uncarried_toNat (base : Word) (index : Byte) :
    (uncarried base index).toNat = 256 * (base.toNat / 256) + (base.toNat + index.toNat) % 256 := by
  have := base.isLt; have := index.isLt
  rw [uncarried, joinBytes_toNat, hiByte_toNat, BitVec.toNat_add, loByte_toNat]; omega

/-- All a branch can do: read cycles, and PC at the target if it is taken. -/
theorem branch_readsOnly (cond : Bool) (rel : Byte) (s : State) :
    ∃ t, ReadsOnly s t ∧ branch cond rel s = t.setPc (if cond then branchTarget rel s.pc else s.pc) := by
  cases cond with
  | false => exact ⟨s, .refl s, rfl⟩
  | true =>
    refine ⟨if hiByte (branchTarget rel s.pc) = hiByte s.pc then discardRead s.pc s
      else discardRead (joinBytes (hiByte s.pc) (loByte (branchTarget rel s.pc))) (discardRead s.pc s), ?_, rfl⟩
    split
    · exact discardRead_readsOnly _ _
    · exact (discardRead_readsOnly _ _).trans (discardRead_readsOnly _ _)

end Sys2Proof.Machine
end

