-- ==== Sys2Proof/Laws/Decode.lean ====
section
/-! SUPPORT. What the decoder answers, said once: row by row of the opcode matrix (30_encoding.md R84), then for byte 0. -/

namespace Sys2Proof

open Machine

/-- What a row of the matrix answers: the instruction has the row's and column's opcode, its operand bytes are those
that follow byte 0, and bytes beyond its length do not count (30_encoding.md R80, R82). -/
def RowSpec (row : Nat) (f : Nat → Byte → Byte → Option Instr) : Prop :=
  ∀ column b1 b2 i, f column b1 b2 = some i →
    opcode i = BitVec.ofNat 8 (16 * row + column) ∧ operandBytes i = [b1, b2].take (instrLength i - 1) ∧
    (f column 0 0).map instrLength = some (instrLength i) ∧ ∀ c, instrLength i < 3 → f column b1 c = some i

/-- The two bytes of a 16-bit operand, in their order (30_encoding.md R82). -/
theorem operand_bytes (b1 b2 : Byte) : [loByte (joinBytes b2 b1), hiByte (joinBytes b2 b1)] = [b1, b2] := by
  rw [loByte_joinBytes, hiByte_joinBytes]

theorem decodeRow0_spec : RowSpec 0x0 decodeRow0 := by
  intro column b1 b2 i h
  unfold decodeRow0 at h
  split at h <;> first
    | (cases h; done)
    | (cases h; exact ⟨rfl, rfl, rfl, fun _ _ => rfl⟩)
    | (cases h; exact ⟨rfl, operand_bytes _ _, rfl, fun _ hl => absurd hl (Nat.lt_irrefl 3)⟩)

theorem decodeRow1_spec : RowSpec 0x1 decodeRow1 := by
  intro column b1 b2 i h
  unfold decodeRow1 at h
  split at h <;> first
    | (cases h; done)
    | (cases h; exact ⟨rfl, rfl, rfl, fun _ _ => rfl⟩)
    | (cases h; exact ⟨rfl, operand_bytes _ _, rfl, fun _ hl => absurd hl (Nat.lt_irrefl 3)⟩)

theorem decodeRow2_spec : RowSpec 0x2 decodeRow2 := by
  intro column b1 b2 i h
  unfold decodeRow2 at h
  split at h <;> first
    | (cases h; done)
    | (cases h; exact ⟨rfl, rfl, rfl, fun _ _ => rfl⟩)
    | (cases h; exact ⟨rfl, operand_bytes _ _, rfl, fun _ hl => absurd hl (Nat.lt_irrefl 3)⟩)

theorem decodeRow3_spec : RowSpec 0x3 decodeRow3 := by
  intro column b1 b2 i h
  unfold decodeRow3 at h
  split at h <;> first
    | (cases h; done)
    | (cases h; exact ⟨rfl, rfl, rfl, fun _ _ => rfl⟩)
    | (cases h; exact ⟨rfl, operand_bytes _ _, rfl, fun _ hl => absurd hl (Nat.lt_irrefl 3)⟩)

theorem decodeRow4_spec : RowSpec 0x4 decodeRow4 := by
  intro column b1 b2 i h
  unfold decodeRow4 at h
  split at h <;> first
    | (cases h; done)
    | (cases h; exact ⟨rfl, rfl, rfl, fun _ _ => rfl⟩)
    | (cases h; exact ⟨rfl, operand_bytes _ _, rfl, fun _ hl => absurd hl (Nat.lt_irrefl 3)⟩)

theorem decodeRow5_spec : RowSpec 0x5 decodeRow5 := by
  intro column b1 b2 i h
  unfold decodeRow5 at h
  split at h <;> first
    | (cases h; done)
    | (cases h; exact ⟨rfl, rfl, rfl, fun _ _ => rfl⟩)
    | (cases h; exact ⟨rfl, operand_bytes _ _, rfl, fun _ hl => absurd hl (Nat.lt_irrefl 3)⟩)

theorem decodeRow6_spec : RowSpec 0x6 decodeRow6 := by
  intro column b1 b2 i h
  unfold decodeRow6 at h
  split at h <;> first
    | (cases h; done)
    | (cases h; exact ⟨rfl, rfl, rfl, fun _ _ => rfl⟩)
    | (cases h; exact ⟨rfl, operand_bytes _ _, rfl, fun _ hl => absurd hl (Nat.lt_irrefl 3)⟩)

theorem decodeRow7_spec : RowSpec 0x7 decodeRow7 := by
  intro column b1 b2 i h
  unfold decodeRow7 at h
  split at h <;> first
    | (cases h; done)
    | (cases h; exact ⟨rfl, rfl, rfl, fun _ _ => rfl⟩)
    | (cases h; exact ⟨rfl, operand_bytes _ _, rfl, fun _ hl => absurd hl (Nat.lt_irrefl 3)⟩)

theorem decodeRow8_spec : RowSpec 0x8 decodeRow8 := by
  intro column b1 b2 i h
  unfold decodeRow8 at h
  split at h <;> first
    | (cases h; done)
    | (cases h; exact ⟨rfl, rfl, rfl, fun _ _ => rfl⟩)
    | (cases h; exact ⟨rfl, operand_bytes _ _, rfl, fun _ hl => absurd hl (Nat.lt_irrefl 3)⟩)

theorem decodeRow9_spec : RowSpec 0x9 decodeRow9 := by
  intro column b1 b2 i h
  unfold decodeRow9 at h
  split at h <;> first
    | (cases h; done)
    | (cases h; exact ⟨rfl, rfl, rfl, fun _ _ => rfl⟩)
    | (cases h; exact ⟨rfl, operand_bytes _ _, rfl, fun _ hl => absurd hl (Nat.lt_irrefl 3)⟩)

theorem decodeRowA_spec : RowSpec 0xA decodeRowA := by
  intro column b1 b2 i h
  unfold decodeRowA at h
  split at h <;> first
    | (cases h; done)
    | (cases h; exact ⟨rfl, rfl, rfl, fun _ _ => rfl⟩)
    | (cases h; exact ⟨rfl, operand_bytes _ _, rfl, fun _ hl => absurd hl (Nat.lt_irrefl 3)⟩)

theorem decodeRowB_spec : RowSpec 0xB decodeRowB := by
  intro column b1 b2 i h
  unfold decodeRowB at h
  split at h <;> first
    | (cases h; done)
    | (cases h; exact ⟨rfl, rfl, rfl, fun _ _ => rfl⟩)
    | (cases h; exact ⟨rfl, operand_bytes _ _, rfl, fun _ hl => absurd hl (Nat.lt_irrefl 3)⟩)

theorem decodeRowC_spec : RowSpec 0xC decodeRowC := by
  intro column b1 b2 i h
  unfold decodeRowC at h
  split at h <;> first
    | (cases h; done)
    | (cases h; exact ⟨rfl, rfl, rfl, fun _ _ => rfl⟩)
    | (cases h; exact ⟨rfl, operand_bytes _ _, rfl, fun _ hl => absurd hl (Nat.lt_irrefl 3)⟩)

theorem decodeRowD_spec : RowSpec 0xD decodeRowD := by
  intro column b1 b2 i h
  unfold decodeRowD at h
  split at h <;> first
    | (cases h; done)
    | (cases h; exact ⟨rfl, rfl, rfl, fun _ _ => rfl⟩)
    | (cases h; exact ⟨rfl, operand_bytes _ _, rfl, fun _ hl => absurd hl (Nat.lt_irrefl 3)⟩)

theorem decodeRowE_spec : RowSpec 0xE decodeRowE := by
  intro column b1 b2 i h
  unfold decodeRowE at h
  split at h <;> first
    | (cases h; done)
    | (cases h; exact ⟨rfl, rfl, rfl, fun _ _ => rfl⟩)
    | (cases h; exact ⟨rfl, operand_bytes _ _, rfl, fun _ hl => absurd hl (Nat.lt_irrefl 3)⟩)

theorem decodeRowF_spec : RowSpec 0xF decodeRowF := by
  intro column b1 b2 i h
  unfold decodeRowF at h
  split at h <;> first
    | (cases h; done)
    | (cases h; exact ⟨rfl, rfl, rfl, fun _ _ => rfl⟩)
    | (cases h; exact ⟨rfl, operand_bytes _ _, rfl, fun _ hl => absurd hl (Nat.lt_irrefl 3)⟩)

/-- What the decoder answers for the bytes of an instruction. -/
theorem decode_spec {b0 b1 b2 : Byte} {i : Instr} (h : decode b0 b1 b2 = .ok i) :
    opcode i = b0 ∧ operandBytes i = [b1, b2].take (instrLength i - 1) ∧ opcodeLength b0 = some (instrLength i) ∧
      ∀ c, instrLength i < 3 → decode b0 b1 c = .ok i := by
  have hm : decodeMatrix b0 b1 b2 = some i := by
    unfold decode at h
    split at h
    · next j hj => injection h with h; rw [hj, h]
    · cases h
  have key : ∀ row f, b0.toNat / 16 = row → (∀ c1 c2, decodeMatrix b0 c1 c2 = f (b0.toNat % 16) c1 c2) → RowSpec row f →
      opcode i = b0 ∧ operandBytes i = [b1, b2].take (instrLength i - 1) ∧ opcodeLength b0 = some (instrLength i) ∧
        ∀ c, instrLength i < 3 → decode b0 b1 c = .ok i := by
    intro row f hr hf hs
    obtain ⟨ho, hb, hl, hc⟩ := hs _ _ _ _ ((hf b1 b2).symm.trans hm)
    have e : 16 * row + b0.toNat % 16 = b0.toNat := by omega
    refine ⟨by rw [ho, e, BitVec.ofNat_toNat, BitVec.setWidth_eq], hb, by rw [opcodeLength, hf]; exact hl, fun c hi => ?_⟩
    rw [decode, hf, hc c hi]
  have hlt : b0.toNat / 16 < 16 := by have := b0.isLt; omega
  by_cases h0 : b0.toNat / 16 = 0x0
  · exact key _ _ h0 (fun _ _ => by simp only [decodeMatrix, h0]) decodeRow0_spec
  by_cases h1 : b0.toNat / 16 = 0x1
  · exact key _ _ h1 (fun _ _ => by simp only [decodeMatrix, h1]) decodeRow1_spec
  by_cases h2 : b0.toNat / 16 = 0x2
  · exact key _ _ h2 (fun _ _ => by simp only [decodeMatrix, h2]) decodeRow2_spec
  by_cases h3 : b0.toNat / 16 = 0x3
  · exact key _ _ h3 (fun _ _ => by simp only [decodeMatrix, h3]) decodeRow3_spec
  by_cases h4 : b0.toNat / 16 = 0x4
  · exact key _ _ h4 (fun _ _ => by simp only [decodeMatrix, h4]) decodeRow4_spec
  by_cases h5 : b0.toNat / 16 = 0x5
  · exact key _ _ h5 (fun _ _ => by simp only [decodeMatrix, h5]) decodeRow5_spec
  by_cases h6 : b0.toNat / 16 = 0x6
  · exact key _ _ h6 (fun _ _ => by simp only [decodeMatrix, h6]) decodeRow6_spec
  by_cases h7 : b0.toNat / 16 = 0x7
  · exact key _ _ h7 (fun _ _ => by simp only [decodeMatrix, h7]) decodeRow7_spec
  by_cases h8 : b0.toNat / 16 = 0x8
  · exact key _ _ h8 (fun _ _ => by simp only [decodeMatrix, h8]) decodeRow8_spec
  by_cases h9 : b0.toNat / 16 = 0x9
  · exact key _ _ h9 (fun _ _ => by simp only [decodeMatrix, h9]) decodeRow9_spec
  by_cases hA : b0.toNat / 16 = 0xA
  · exact key _ _ hA (fun _ _ => by simp only [decodeMatrix, hA]) decodeRowA_spec
  by_cases hB : b0.toNat / 16 = 0xB
  · exact key _ _ hB (fun _ _ => by simp only [decodeMatrix, hB]) decodeRowB_spec
  by_cases hC : b0.toNat / 16 = 0xC
  · exact key _ _ hC (fun _ _ => by simp only [decodeMatrix, hC]) decodeRowC_spec
  by_cases hD : b0.toNat / 16 = 0xD
  · exact key _ _ hD (fun _ _ => by simp only [decodeMatrix, hD]) decodeRowD_spec
  by_cases hE : b0.toNat / 16 = 0xE
  · exact key _ _ hE (fun _ _ => by simp only [decodeMatrix, hE]) decodeRowE_spec
  by_cases hF : b0.toNat / 16 = 0xF
  · exact key _ _ hF (fun _ _ => by simp only [decodeMatrix, hF]) decodeRowF_spec
  omega

/-- A byte that starts an instruction starts one whatever follows. -/
theorem decode_of_length {b0 : Byte} {n : Nat} (h : opcodeLength b0 = some n) (b1 b2 : Byte) :
    ∃ i, decode b0 b1 b2 = .ok i := by
  have e : (decodeMatrix b0 b1 b2).isSome = (decodeMatrix b0 0 0).isSome := by
    simp only [decodeMatrix]
    split <;> first
      | rfl
      | (simp only [decodeRow0, decodeRow1, decodeRow2, decodeRow3, decodeRow4, decodeRow5, decodeRow6, decodeRow7,
          decodeRow8, decodeRow9, decodeRowA, decodeRowB, decodeRowC, decodeRowD, decodeRowE, decodeRowF]
         split <;> rfl)
  have hs : (decodeMatrix b0 0 0).isSome = true := by
    have hn := congrArg Option.isSome h
    rw [opcodeLength, Option.isSome_map] at hn
    exact hn
  obtain ⟨i, hi⟩ := Option.isSome_iff_exists.mp (e.trans hs)
  exact ⟨i, by rw [decode, hi]⟩

end Sys2Proof
end

