-- ==== Sys2Proof/Laws/Flags.lean ====
section
/-! SUPPORT. What the arithmetic, logic and shift instructions do with their operand, said once. -/

namespace Sys2Proof.Machine

/-- P after `SetNZ(v)` as a claim spells it. -/
theorem setNZ_eq (p : Flags) (v : Byte) : p.setNZ v = { p with n := v.getLsbD 7, z := decide (v = 0) } := rfl

/-! ## Memory is left alone -/

@[simp] theorem loadA_peek (s : State) (v : Byte) (addr : Word) : (s.loadA v).peek addr = s.peek addr := rfl
@[simp] theorem loadX_peek (s : State) (v : Byte) (addr : Word) : (s.loadX v).peek addr = s.peek addr := rfl
@[simp] theorem loadY_peek (s : State) (v : Byte) (addr : Word) : (s.loadY v).peek addr = s.peek addr := rfl

@[simp] theorem addToA_peek (r : Byte × State) (addr : Word) : (addToA r).peek addr = r.2.peek addr := by
  simp only [addToA]; split <;> rfl

@[simp] theorem subFromA_peek (r : Byte × State) (addr : Word) : (subFromA r).peek addr = r.2.peek addr := by
  simp only [subFromA]; split <;> rfl

/-! ## The processor -/

@[simp] theorem loadA_cpu (s : State) (v : Byte) : (s.loadA v).cpu = { s.cpu with a := v, p := s.p.setNZ v } := rfl
@[simp] theorem loadX_cpu (s : State) (v : Byte) : (s.loadX v).cpu = { s.cpu with x := v, p := s.p.setNZ v } := rfl
@[simp] theorem loadY_cpu (s : State) (v : Byte) : (s.loadY v).cpu = { s.cpu with y := v, p := s.p.setNZ v } := rfl

/-- All an ADC does to the processor with P.D = 0. -/
theorem addToA_binary_cpu {r : Byte × State} (h : r.2.p.d = false) :
    (addToA r).cpu = { r.2.cpu with
      a := (addBinary r.2.a r.1 r.2.p).1, p := (addBinary r.2.a r.1 r.2.p).2 } := by
  simp only [addToA, h]; rfl

/-- All an SBC does to the processor with P.D = 0. -/
theorem subFromA_binary_cpu {r : Byte × State} (h : r.2.p.d = false) :
    (subFromA r).cpu = { r.2.cpu with
      a := (subBinary r.2.a r.1 r.2.p).1, p := (subBinary r.2.a r.1 r.2.p).2 } := by
  simp only [subFromA, h]; rfl

/-- All an ADC does to the processor with P.D = 1. -/
theorem addToA_decimal_cpu {r : Byte × State} (h : r.2.p.d = true) :
    (addToA r).cpu = { r.2.cpu with
      a := (addDecimal r.2.a r.1 r.2.p r.2.env.free).1, p := (addDecimal r.2.a r.1 r.2.p r.2.env.free).2 } := by
  simp only [addToA, h]; rfl

/-- All an SBC does to the processor with P.D = 1. -/
theorem subFromA_decimal_cpu {r : Byte × State} (h : r.2.p.d = true) :
    (subFromA r).cpu = { r.2.cpu with
      a := (subDecimal r.2.a r.1 r.2.p r.2.env.free).1, p := (subDecimal r.2.a r.1 r.2.p r.2.env.free).2 } := by
  simp only [subFromA, h]; rfl

/-- A decimal ADC or SBC leaves D and I alone, whatever its operands (42_arithmetic.md R153). -/
theorem addDecimal_frame (a m : Byte) (p : Flags) (k : Nat) :
    (addDecimal a m p k).2.d = p.d ∧ (addDecimal a m p k).2.i = p.i := by
  unfold addDecimal; split <;> exact ⟨rfl, rfl⟩

theorem subDecimal_frame (a m : Byte) (p : Flags) (k : Nat) :
    (subDecimal a m p k).2.d = p.d ∧ (subDecimal a m p k).2.i = p.i := by
  unfold subDecimal; split <;> exact ⟨rfl, rfl⟩

/-- The byte of a number up to 99 is valid BCD and stands for it (42_arithmetic.md R153). -/
theorem bcdByte_spec {n : Nat} (h : n < 100) : validBcd (bcdByte n) = true ∧ bcdValue (bcdByte n) = n := by
  have e : (bcdByte n).toNat = n / 10 * 16 + n % 10 := by
    simp only [bcdByte, BitVec.toNat_ofNat]; omega
  simp only [validBcd, bcdValue, e, decide_eq_true_eq]
  omega

end Sys2Proof.Machine
end

