-- ==== Sys2Proof/Laws/Traps.lean ====
section
/-! SUPPORT. What the stack, taking a trap and returning from one can do, said once. -/

namespace Sys2Proof.Machine

/-! ## The stack -/

/-- All a push does to the processor (10_state.md R23). -/
@[simp] theorem push_cpu (v : Byte) (s : State) : (push v s).cpu = { s.cpu with sp := s.sp - 1 } := by
  rw [push, State.setSp_cpu, memWrite_cpu]

@[simp] theorem push_sp (v : Byte) (s : State) : (push v s).sp = s.sp - 1 := rfl
@[simp] theorem push_p (v : Byte) (s : State) : (push v s).p = s.p := (memWrite_sameCpu _ _ _).p
@[simp] theorem push_pc (v : Byte) (s : State) : (push v s).pc = s.pc := (memWrite_sameCpu _ _ _).pc
@[simp] theorem push_cfg (v : Byte) (s : State) : (push v s).cfg = s.cfg := (memWrite_sameCpu _ _ _).cfg
@[simp] theorem push_env_now (v : Byte) (s : State) : (push v s).env.now = s.env.now := (memWrite_sameCpu _ _ _).now

@[simp] theorem push_kindOf (v : Byte) (s : State) (addr : Word) : (push v s).kindOf addr = s.kindOf addr := by
  simp only [State.kindOf, push_cfg]

@[simp] theorem push_isRam (v : Byte) (s : State) (addr : Word) : (push v s).IsRam addr ↔ s.IsRam addr := by
  simp only [State.IsRam, State.kindOf, push_cfg]

@[simp] theorem push_isMemory (v : Byte) (s : State) (addr : Word) : (push v s).IsMemory addr ↔ s.IsMemory addr := by
  simp only [State.IsMemory, State.kindOf, push_cfg]

theorem push_noDma {v : Byte} {s : State} (h : s.NoDma) : (push v s).NoDma := memWrite_noDma h

/-- All a push does to memory: one byte of page one, if it is RAM. -/
theorem push_peek (v : Byte) (s : State) (b : Word) :
    (push v s).peek b =
      if busAddr s.cfg.member b = busAddr s.cfg.member (stackAddr s.sp) ∧ s.kindOf (stackAddr s.sp) = .ram then v
      else s.peek b := memWrite_peek _ _ _ _

/-- All a pull can do: S moves, and there is one read cycle (10_state.md R23). -/
theorem pull_readsOnly (s : State) : ReadsOnly (s.setSp (s.sp + 1)) (pull s).2 := memRead_readsOnly _ _

@[simp] theorem pull_cpu (s : State) : (pull s).2.cpu = { s.cpu with sp := s.sp + 1 } := (pull_readsOnly s).cpu
@[simp] theorem pull_sp (s : State) : (pull s).2.sp = s.sp + 1 := (pull_readsOnly s).sp
@[simp] theorem pull_p (s : State) : (pull s).2.p = s.p := (pull_readsOnly s).p
@[simp] theorem pull_a (s : State) : (pull s).2.a = s.a := (pull_readsOnly s).a
@[simp] theorem pull_cfg (s : State) : (pull s).2.cfg = s.cfg := (pull_readsOnly s).cfg

theorem pull_noDma {s : State} (h : s.NoDma) : (pull s).2.NoDma := (pull_readsOnly s).noDma h

theorem pull_peek {s : State} (h : s.NoDma) (addr : Word) : (pull s).2.peek addr = s.peek addr :=
  (pull_readsOnly s).peek h addr

/-- The byte a pull takes, from memory. -/
theorem pull_memory {s : State} (hd : s.NoDma) (hm : s.IsMemory (stackAddr (s.sp + 1))) :
    (pull s).1 = s.peek (stackAddr (s.sp + 1)) := memRead_memory (s := s.setSp (s.sp + 1)) hd hm

theorem peekStack_readsOnly (s : State) : ReadsOnly s (peekStack s) := discardRead_readsOnly _ _

@[simp] theorem peekStack_cpu (s : State) : (peekStack s).cpu = s.cpu := (peekStack_readsOnly s).cpu
@[simp] theorem peekStack_sp (s : State) : (peekStack s).sp = s.sp := (peekStack_readsOnly s).sp
@[simp] theorem peekStack_p (s : State) : (peekStack s).p = s.p := (peekStack_readsOnly s).p
@[simp] theorem peekStack_a (s : State) : (peekStack s).a = s.a := (peekStack_readsOnly s).a
@[simp] theorem peekStack_cfg (s : State) : (peekStack s).cfg = s.cfg := (peekStack_readsOnly s).cfg

/-- The stack stays memory where the platform stays the same. -/
theorem SameCpu.stackIsMemory {s t : State} (h : SameCpu s t) (hm : s.StackIsMemory) : t.StackIsMemory :=
  fun k => h.isMemory.mpr (hm k)

/-! ## Vectors -/

/-- Setting PC after read cycles or before them is the same. -/
theorem setPc_readsOnly {s t : State} (h : ReadsOnly s t) (v : Word) : ReadsOnly (s.setPc v) (t.setPc v) :=
  ⟨⟨h.a, h.x, h.y, h.sp, rfl, h.p, h.nmiPending, h.oldI, h.inReset, h.cfg, h.samples, h.now⟩, h.mem, h.noDma⟩

/-- All that loading a vector can do: read cycles, and PC. -/
theorem loadVector_readsOnly (vec : Word) (s : State) :
    ReadsOnly (s.setPc (loadVector vec s).pc) (loadVector vec s) := by
  simp only [loadVector, State.setPc_pc]
  exact setPc_readsOnly ((memRead_readsOnly _ _).trans (memRead_readsOnly _ _)) _

/-- PC from a vector in memory (20_memory.md R55). -/
theorem loadVector_pc {vec : Word} {s : State} (hd : s.NoDma) (h0 : s.IsMemory vec) (h1 : s.IsMemory (vec + 1)) :
    (loadVector vec s).pc = joinBytes (s.peek (vec + 1)) (s.peek vec) := by
  have h := memRead_readsOnly vec s
  simp only [loadVector, State.setPc_pc, memRead_memory hd h0,
    memRead_memory (h.noDma hd) (h.toSameCpu.isMemory.mpr h1), h.peek hd]

/-! ## Taking a trap and returning from one -/

/-- All that stacking a trap does to the processor (60_exceptions.md R230). -/
@[simp] theorem stackTrap_cpu (b : Bool) (ret : Word) (s : State) :
    (stackTrap b ret s).cpu = { s.cpu with sp := s.sp - 3, p := { s.p with i := true } } := by
  have e : s.sp - 1 - 1 - 1 = s.sp - 3 := by bv_omega
  simp only [stackTrap, State.setP_cpu, push_cpu, push_sp, push_p, e]

theorem stackTrap_noDma {b : Bool} {ret : Word} {s : State} (h : s.NoDma) : (stackTrap b ret s).NoDma := by
  simp only [stackTrap, State.NoDma, State.setP_env]
  exact push_noDma (push_noDma (push_noDma h))

@[simp] theorem stackTrap_cfg (b : Bool) (ret : Word) (s : State) : (stackTrap b ret s).cfg = s.cfg :=
  congrArg Cpu.cfg (stackTrap_cpu b ret s)

@[simp] theorem stackTrap_env_now (b : Bool) (ret : Word) (s : State) : (stackTrap b ret s).env.now = s.env.now :=
  congrArg Cpu.now (stackTrap_cpu b ret s)

@[simp] theorem stackTrap_isMemory (b : Bool) (ret : Word) (s : State) (addr : Word) :
    (stackTrap b ret s).IsMemory addr ↔ s.IsMemory addr := by
  simp only [State.IsMemory, State.kindOf, stackTrap_cfg]

/-- All that stacking a trap does to memory: three bytes of page one, where they are RAM (60_exceptions.md R230). -/
theorem stackTrap_peek (b : Bool) (ret : Word) (s : State) (addr : Word) :
    (stackTrap b ret s).peek addr =
      if busAddr s.cfg.member addr = busAddr s.cfg.member (stackAddr (s.sp - 2)) ∧
          s.kindOf (stackAddr (s.sp - 2)) = .ram then
        packP s.p b
      else if busAddr s.cfg.member addr = busAddr s.cfg.member (stackAddr (s.sp - 1)) ∧
          s.kindOf (stackAddr (s.sp - 1)) = .ram then loByte ret
      else if busAddr s.cfg.member addr = busAddr s.cfg.member (stackAddr s.sp) ∧
          s.kindOf (stackAddr s.sp) = .ram then hiByte ret
      else s.peek addr := by
  have e : s.sp - 1 - 1 = s.sp - 2 := by bv_omega
  simp only [stackTrap, State.setP_peek, push_peek, push_cfg, push_sp, push_kindOf, push_p, e]

/-- The pins of every member keep the vectors out of page one (20_memory.md R51, R56). -/
theorem busAddr_vector_ne_stackAddr (m : Member) (sp : Byte) {vec : Word} (h : 0xFFFA ≤ vec.toNat) :
    busAddr m vec ≠ busAddr m (stackAddr sp) := by
  have := sp.isLt; have := vec.isLt
  rw [busAddr_stackAddr, busAddr]
  rcases addressPins_cases m with h | h | h <;> rw [h] <;> omega

/-- A vector holds after a trap is stacked what it held before. -/
theorem stackTrap_peek_vector (b : Bool) (ret : Word) (s : State) {vec : Word} (h : 0xFFFA ≤ vec.toNat) :
    (stackTrap b ret s).peek vec = s.peek vec := by
  rw [stackTrap_peek, if_neg, if_neg, if_neg] <;> exact fun hb => busAddr_vector_ne_stackAddr _ _ h hb.1

/-- P goes to the stack and comes back (00_scope.md R10): bits 5 and 4 are lost. -/
@[simp] theorem unpackP_packP (p : Flags) (b : Bool) : unpackP (packP p b) = p := by
  obtain ⟨n, v, d, i, z, c⟩ := p
  cases n <;> cases v <;> cases d <;> cases i <;> cases z <;> cases c <;> cases b <;> rfl

/-- What using up the edge does: two latches (60_exceptions.md R232 b). -/
@[simp] theorem useUpNmi_cpu (s : State) :
    (useUpNmi s).cpu = { s.cpu with nmiPending := false, now := { s.env.now with nmiDuring := false } } := rfl

@[simp] theorem useUpNmi_peek (s : State) (addr : Word) : (useUpNmi s).peek addr = s.peek addr := rfl
@[simp] theorem useUpNmi_cfg (s : State) : (useUpNmi s).cfg = s.cfg := rfl
@[simp] theorem useUpNmi_trace (s : State) : (useUpNmi s).env.trace = s.env.trace := rfl
@[simp] theorem useUpNmi_isMemory (s : State) (addr : Word) : (useUpNmi s).IsMemory addr ↔ s.IsMemory addr := Iff.rfl
@[simp] theorem useUpNmi_readCycle (s : State) (addr : Word) (v : Byte) :
    readCycle (useUpNmi s) addr v = readCycle s addr v := rfl
theorem useUpNmi_noDma {s : State} (h : s.NoDma) : (useUpNmi s).NoDma := h

/-- What a trap comes down to: the stacking, and one of two vectors (60_exceptions.md R232). -/
theorem takeTrap_eq (b : Bool) (ret : Word) (s : State) :
    takeTrap b ret s =
      if hasNmi s.cfg.member && s.env.now.nmiDuring then loadVector nmiVector (useUpNmi (stackTrap b ret s))
      else loadVector irqVector (stackTrap b ret s) := by
  simp only [takeTrap, nmiTakesOver, stackTrap_cfg, stackTrap_env_now]

/-- Loading a vector from memory changes PC alone. -/
theorem loadVector_cpu {vec : Word} {s : State} (hd : s.NoDma) (h0 : s.IsMemory vec) (h1 : s.IsMemory (vec + 1)) :
    (loadVector vec s).cpu = { s.cpu with pc := joinBytes (s.peek (vec + 1)) (s.peek vec) } := by
  rw [(loadVector_readsOnly vec s).cpu, loadVector_pc hd h0 h1, State.setPc_cpu]

theorem loadVector_peek {vec : Word} {s : State} (hd : s.NoDma) (addr : Word) :
    (loadVector vec s).peek addr = s.peek addr := (loadVector_readsOnly vec s).peek hd addr

theorem sequenceStart_readsOnly (s : State) : ReadsOnly s (sequenceStart s) :=
  (discardRead_readsOnly _ _).trans (discardRead_readsOnly _ _)

/-- All a return from a trap can do (45_stack_flag_system.md R213): read cycles, and S, P and PC. -/
theorem returnFromTrap_readsOnly (s : State) :
    ReadsOnly (((s.setSp (s.sp + 3)).setP (returnFromTrap s).p).setPc (returnFromTrap s).pc) (returnFromTrap s) := by
  have e : s.sp + 1 + 1 + 1 = s.sp + 3 := by bv_omega
  have h0 := peekStack_readsOnly s
  have h1 := pull_readsOnly (peekStack s)
  have h2 := pull_readsOnly ((pull (peekStack s)).2.setP (unpackP (pull (peekStack s)).1))
  have h3 := pull_readsOnly (pull ((pull (peekStack s)).2.setP (unpackP (pull (peekStack s)).1))).2
  have hm : s.NoDma → (returnFromTrap s).mem = s.mem := fun d =>
    (h3.mem (h2.noDma (h1.noDma (h0.noDma d)))).trans
      ((h2.mem (h1.noDma (h0.noDma d))).trans ((h1.mem (h0.noDma d)).trans (h0.mem d)))
  have hd : s.NoDma → (returnFromTrap s).NoDma := fun d => h3.noDma (h2.noDma (h1.noDma (h0.noDma d)))
  refine ⟨⟨h3.a.trans (h2.a.trans (h1.a.trans h0.a)), h3.x.trans (h2.x.trans (h1.x.trans h0.x)),
    h3.y.trans (h2.y.trans (h1.y.trans h0.y)), ?_, rfl, rfl,
    h3.nmiPending.trans (h2.nmiPending.trans (h1.nmiPending.trans h0.nmiPending)),
    h3.oldI.trans (h2.oldI.trans (h1.oldI.trans h0.oldI)),
    h3.inReset.trans (h2.inReset.trans (h1.inReset.trans h0.inReset)),
    h3.cfg.trans (h2.cfg.trans (h1.cfg.trans h0.cfg)),
    h3.samples.trans (h2.samples.trans (h1.samples.trans h0.samples)),
    h3.now.trans (h2.now.trans (h1.now.trans h0.now))⟩, hm, hd⟩
  show (returnFromTrap s).sp = s.sp + 3
  simp only [returnFromTrap, State.setPc_sp, pull_sp, State.setP_sp, peekStack_sp, e]

/-! ## Subroutines -/

/-- All that JSR does to memory: two bytes of page one, where they are RAM (44_control_transfer.md R189). -/
theorem callSubroutine_peek {s : State} (hd : s.NoDma) (lo : Byte) (addr : Word) :
    (callSubroutine lo s).peek addr =
      if busAddr s.cfg.member addr = busAddr s.cfg.member (stackAddr (s.sp - 1)) ∧
          s.kindOf (stackAddr (s.sp - 1)) = .ram then loByte (s.pc - 1)
      else if busAddr s.cfg.member addr = busAddr s.cfg.member (stackAddr s.sp) ∧
          s.kindOf (stackAddr s.sp) = .ram then hiByte (s.pc - 1)
      else s.peek addr := by
  have h0 := peekStack_readsOnly s
  have hp := push_noDma (v := loByte (s.pc - 1)) (push_noDma (v := hiByte (s.pc - 1)) (h0.noDma hd))
  simp only [callSubroutine, State.setPc_peek, (memRead_readsOnly _ _).peek hp, push_peek, push_cfg, push_kindOf, push_sp,
    h0.sp, h0.cfg, h0.toSameCpu.kindOf, h0.peek hd]

/-- All that JSR does to the processor: S and PC. -/
theorem callSubroutine_cpu (lo : Byte) (s : State) :
    (callSubroutine lo s).cpu = { s.cpu with sp := s.sp - 2, pc := (callSubroutine lo s).pc } := by
  have e : s.sp - 1 - 1 = s.sp - 2 := by bv_omega
  simp only [callSubroutine, State.setPc_cpu, memRead_cpu, push_cpu, peekStack_cpu, push_sp, peekStack_sp, e,
    State.setPc_pc]

theorem callSubroutine_noDma {s : State} (hd : s.NoDma) (lo : Byte) : (callSubroutine lo s).NoDma := by
  simp only [callSubroutine, State.NoDma, State.setPc_env]
  exact (memRead_readsOnly _ _).noDma (push_noDma (push_noDma ((peekStack_readsOnly s).noDma hd)))

/-- All that RTS can do: read cycles, and S and PC (44_control_transfer.md R190). -/
theorem returnFromSubroutine_readsOnly (s : State) :
    ReadsOnly ((s.setSp (s.sp + 2)).setPc (returnFromSubroutine s).pc) (returnFromSubroutine s) := by
  have e : s.sp + 1 + 1 = s.sp + 2 := by bv_omega
  have h0 := peekStack_readsOnly s
  have h1 := pull_readsOnly (peekStack s)
  have h2 := pull_readsOnly (pull (peekStack s)).2
  simp only [returnFromSubroutine, State.setPc_pc]
  refine setPc_readsOnly (ReadsOnly.trans ?_ (discardRead_readsOnly _ _)) _
  refine ⟨⟨h2.a.trans (h1.a.trans h0.a), h2.x.trans (h1.x.trans h0.x), h2.y.trans (h1.y.trans h0.y), ?_,
    h2.pc.trans (h1.pc.trans h0.pc), h2.p.trans (h1.p.trans h0.p),
    h2.nmiPending.trans (h1.nmiPending.trans h0.nmiPending), h2.oldI.trans (h1.oldI.trans h0.oldI),
    h2.inReset.trans (h1.inReset.trans h0.inReset), h2.cfg.trans (h1.cfg.trans h0.cfg),
    h2.samples.trans (h1.samples.trans h0.samples), h2.now.trans (h1.now.trans h0.now)⟩,
    fun d => (h2.mem (h1.noDma (h0.noDma d))).trans ((h1.mem (h0.noDma d)).trans (h0.mem d)),
    fun d => h2.noDma (h1.noDma (h0.noDma d))⟩
  simp only [pull_sp, peekStack_sp, State.setSp_sp, e]

end Sys2Proof.Machine
end

