-- ==== Sys2Proof/Laws/Invariant.lean ====
section
/-! SUPPORT. What every operation keeps: the member and the map, the canonical form of memory, and no NMI pending that was
not pending before. -/

namespace Sys2Proof.Machine

/-- Memory is in canonical form, and within the address pins of the member. -/
def State.MemOk (s : State) : Prop := s.mem.wf = true ∧ s.mem.below (2 ^ addressPins s.cfg.member) = true

/-- The addresses of the trace are bus addresses. -/
def State.TraceOk (s : State) : Prop := ∀ c ∈ s.env.trace, c.addr < 2 ^ addressPins s.cfg.member

/-- What every operation but the latching of an edge keeps, from `s` to `t`. -/
structure Keeps (s t : State) : Prop where
  cfg : t.cfg = s.cfg
  mem : s.MemOk → t.MemOk
  nmi : t.nmiPending = true → s.nmiPending = true
  trace : s.TraceOk → t.TraceOk

theorem Keeps.refl (s : State) : Keeps s s := ⟨rfl, id, id, id⟩

theorem Keeps.trans {s t u : State} (h : Keeps s t) (k : Keeps t u) : Keeps s u :=
  ⟨k.cfg.trans h.cfg, fun m => k.mem (h.mem m), fun n => h.nmi (k.nmi n), fun r => k.trace (h.trace r)⟩

/-- What does not touch memory, the map or the NMI latch keeps them. -/
theorem Keeps.of_eq {s t : State} (hm : t.mem = s.mem) (hc : t.cfg = s.cfg) (hn : t.nmiPending = s.nmiPending)
    (ht : t.env.trace = s.env.trace) : Keeps s t :=
  ⟨hc, fun m => by simpa only [State.MemOk, hm, hc] using m, fun h => hn ▸ h,
    fun r => by simpa only [State.TraceOk, ht, hc] using r⟩

theorem keeps_setA (s : State) (v : Byte) : Keeps s (s.setA v) := .of_eq rfl rfl rfl rfl
theorem keeps_setX (s : State) (v : Byte) : Keeps s (s.setX v) := .of_eq rfl rfl rfl rfl
theorem keeps_setY (s : State) (v : Byte) : Keeps s (s.setY v) := .of_eq rfl rfl rfl rfl
theorem keeps_setSp (s : State) (v : Byte) : Keeps s (s.setSp v) := .of_eq rfl rfl rfl rfl
theorem keeps_setPc (s : State) (v : Word) : Keeps s (s.setPc v) := .of_eq rfl rfl rfl rfl
theorem keeps_setP (s : State) (v : Flags) : Keeps s (s.setP v) := .of_eq rfl rfl rfl rfl
theorem keeps_setOldI (s : State) (v : Option Bool) : Keeps s (s.setOldI v) := .of_eq rfl rfl rfl rfl
theorem keeps_setInReset (s : State) (v : Bool) : Keeps s (s.setInReset v) := .of_eq rfl rfl rfl rfl
theorem keeps_setEnv (s : State) {v : Env} (h : v.trace = s.env.trace) : Keeps s (s.setEnv v) := .of_eq rfl rfl rfl h
theorem keeps_useFree (s : State) (k : Nat) : Keeps s (s.useFree k) := .of_eq rfl rfl rfl rfl
theorem keeps_clearNmi (s : State) : Keeps s (s.setNmiPending false) := ⟨rfl, id, fun h => Bool.noConfusion h, id⟩

/-- A bus cycle at a bus address is added to the trace. -/
theorem keeps_record (s : State) {v : Env} {c : BusCycle} (h : v.trace = s.env.trace)
    (hc : c.addr < 2 ^ addressPins s.cfg.member) : Keeps s (s.setEnv (v.record c)) := by
  refine ⟨rfl, id, id, fun r d hd => ?_⟩
  rcases List.mem_append.mp (show d ∈ v.trace ++ [c] from hd) with hd | hd
  · exact r d (h ▸ hd)
  · rw [List.mem_singleton.mp hd]; exact hc

/-! ## Memory -/

/-- A write of a byte within the pins keeps the canonical form. -/
theorem keeps_poke (s : State) {n : Nat} (v : Byte) (h : n < 2 ^ addressPins s.cfg.member) : Keeps s (s.poke n v) := by
  unfold State.poke
  split
  · exact ⟨rfl, fun m => ⟨Memory.wf_write n v m.1, Memory.below_write v m.2 h⟩, id, id⟩
  · exact .refl s

theorem keeps_dmaWrite (s : State) (w : DmaWrite) : Keeps s (s.dmaWrite w) := keeps_poke s _ (busAddr_lt _ _)

theorem keeps_dmaWrites (ws : List DmaWrite) (s : State) : Keeps s (ws.foldl State.dmaWrite s) := by
  induction ws generalizing s with
  | nil => exact .refl s
  | cons w ws ih => exact (keeps_dmaWrite s w).trans (ih _)

theorem keeps_dmaCycle (s : State) : Keeps s (dmaCycle s) := by
  unfold dmaCycle
  split
  · exact (keeps_dmaWrites _ s).trans (keeps_setEnv _ rfl)
  · exact .refl s

theorem keeps_busRead (opcode : Bool) (addr : Word) (s : State) : Keeps s (busRead opcode addr s).2 :=
  (keeps_dmaCycle s).trans (keeps_record _ (Env.afterRead_trace _ _) (busAddr_lt _ _))

theorem keeps_memRead (addr : Word) (s : State) : Keeps s (memRead addr s).2 := keeps_busRead _ _ _

theorem keeps_discardRead (addr : Word) (s : State) : Keeps s (discardRead addr s) := keeps_busRead _ _ _

theorem keeps_memWrite (addr : Word) (v : Byte) (s : State) : Keeps s (memWrite addr v s) :=
  (keeps_poke s v (busAddr_lt _ _)).trans
    (keeps_record _ rfl (by rw [(poke_sameCpu _ _ _).cfg]; exact busAddr_lt _ _))

/-! ## Operands -/

theorem keeps_zeroPagePointer (p : Byte) (s : State) : Keeps s (zeroPagePointer p s).2 :=
  (keeps_memRead _ _).trans (keeps_memRead _ _)

theorem keeps_indexedAddr (acc : Access) (base : Word) (index : Byte) (s : State) :
    Keeps s (indexedAddr acc base index s).2 := by
  cases acc with
  | load =>
    simp only [indexedAddr]; split
    · exact keeps_discardRead _ _
    · exact .refl s
  | modify => exact keeps_discardRead _ _

theorem keeps_effectiveAddr (acc : Access) (m : MemOperand) (s : State) : Keeps s (effectiveAddr acc m s).2 := by
  cases m with
  | zp | abs => exact .refl s
  | zpX | zpY => exact keeps_discardRead _ _
  | absX | absY => exact keeps_indexedAddr _ _ _ _
  | indX => exact (keeps_discardRead _ _).trans (keeps_zeroPagePointer _ _)
  | indY => exact (keeps_zeroPagePointer _ _).trans (keeps_indexedAddr _ _ _ _)

theorem keeps_readOperand (m : MemOperand) (s : State) : Keeps s (readOperand m s).2 :=
  (keeps_effectiveAddr _ _ _).trans (keeps_memRead _ _)

theorem keeps_storeOperand (m : MemOperand) (v : Byte) (s : State) : Keeps s (storeOperand m v s) :=
  (keeps_effectiveAddr _ _ _).trans (keeps_memWrite _ _ _)

theorem keeps_modifyOperand (m : MemOperand) (f : Byte → Flags → Byte × Flags) (s : State) :
    Keeps s (modifyOperand m f s) :=
  (keeps_effectiveAddr _ _ _).trans <| (keeps_memRead _ _).trans <| (keeps_memWrite _ _ _).trans <|
    (keeps_memWrite _ _ _).trans (keeps_setP _ _)

/-! ## What an instruction does with its operand -/

theorem keeps_loadA (s : State) (v : Byte) : Keeps s (s.loadA v) := .of_eq rfl rfl rfl rfl
theorem keeps_loadX (s : State) (v : Byte) : Keeps s (s.loadX v) := .of_eq rfl rfl rfl rfl
theorem keeps_loadY (s : State) (v : Byte) : Keeps s (s.loadY v) := .of_eq rfl rfl rfl rfl

theorem keeps_loadIntoA (r : Byte × State) : Keeps r.2 (loadIntoA r) := .of_eq rfl rfl rfl rfl
theorem keeps_loadIntoX (r : Byte × State) : Keeps r.2 (loadIntoX r) := .of_eq rfl rfl rfl rfl
theorem keeps_loadIntoY (r : Byte × State) : Keeps r.2 (loadIntoY r) := .of_eq rfl rfl rfl rfl
theorem keeps_andIntoA (r : Byte × State) : Keeps r.2 (andIntoA r) := .of_eq rfl rfl rfl rfl
theorem keeps_orIntoA (r : Byte × State) : Keeps r.2 (orIntoA r) := .of_eq rfl rfl rfl rfl
theorem keeps_xorIntoA (r : Byte × State) : Keeps r.2 (xorIntoA r) := .of_eq rfl rfl rfl rfl
theorem keeps_compareWithA (r : Byte × State) : Keeps r.2 (compareWithA r) := .of_eq rfl rfl rfl rfl
theorem keeps_compareWithX (r : Byte × State) : Keeps r.2 (compareWithX r) := .of_eq rfl rfl rfl rfl
theorem keeps_compareWithY (r : Byte × State) : Keeps r.2 (compareWithY r) := .of_eq rfl rfl rfl rfl
theorem keeps_testBits (r : Byte × State) : Keeps r.2 (testBits r) := .of_eq rfl rfl rfl rfl

theorem keeps_addToA (r : Byte × State) : Keeps r.2 (addToA r) := by
  simp only [addToA]; split <;> exact .of_eq rfl rfl rfl rfl

theorem keeps_subFromA (r : Byte × State) : Keeps r.2 (subFromA r) := by
  simp only [subFromA]; split <;> exact .of_eq rfl rfl rfl rfl

theorem keeps_modifyA (f : Byte → Flags → Byte × Flags) (s : State) : Keeps s (modifyA f s) := .of_eq rfl rfl rfl rfl

/-! ## Control transfer, the stack, traps and reset -/

theorem keeps_branch (cond : Bool) (rel : Byte) (s : State) : Keeps s (branch cond rel s) := by
  unfold branch
  split
  · dsimp only
    split
    · exact (keeps_discardRead _ _).trans (keeps_setPc _ _)
    · exact (keeps_discardRead _ _).trans ((keeps_discardRead _ _).trans (keeps_setPc _ _))
  · exact .refl s

theorem keeps_jumpIndirect (ptr : Word) (s : State) : Keeps s (jumpIndirect ptr s) :=
  (keeps_memRead _ _).trans ((keeps_memRead _ _).trans (keeps_setPc _ _))

theorem keeps_push (v : Byte) (s : State) : Keeps s (push v s) := (keeps_memWrite _ _ _).trans (keeps_setSp _ _)

theorem keeps_pull (s : State) : Keeps s (pull s).2 := (keeps_setSp _ _).trans (keeps_memRead _ _)

theorem keeps_peekStack (s : State) : Keeps s (peekStack s) := keeps_discardRead _ _

theorem keeps_callSubroutine (lo : Byte) (s : State) : Keeps s (callSubroutine lo s) :=
  (keeps_peekStack s).trans <| (keeps_push _ _).trans <| (keeps_push _ _).trans <|
    (keeps_memRead _ _).trans (keeps_setPc _ _)

theorem keeps_returnFromSubroutine (s : State) : Keeps s (returnFromSubroutine s) :=
  (keeps_peekStack s).trans <| (keeps_pull _).trans <| (keeps_pull _).trans <|
    (keeps_discardRead _ _).trans (keeps_setPc _ _)

theorem keeps_pullStatus (s : State) : Keeps s (pullStatus s) :=
  (keeps_peekStack s).trans ((keeps_pull _).trans ((keeps_setP _ _).trans (keeps_setOldI _ _)))

theorem keeps_loadVector (vec : Word) (s : State) : Keeps s (loadVector vec s) :=
  (keeps_memRead _ _).trans ((keeps_memRead _ _).trans (keeps_setPc _ _))

theorem keeps_stackTrap (b : Bool) (ret : Word) (s : State) : Keeps s (stackTrap b ret s) :=
  (keeps_push _ _).trans ((keeps_push _ _).trans ((keeps_push _ _).trans (keeps_setP _ _)))

theorem keeps_useUpNmi (s : State) : Keeps s (useUpNmi s) := ⟨rfl, id, fun h => Bool.noConfusion h, id⟩

theorem keeps_takeTrap (b : Bool) (ret : Word) (s : State) : Keeps s (takeTrap b ret s) := by
  rw [takeTrap_eq]
  split
  · exact (keeps_stackTrap _ _ _).trans <| (keeps_useUpNmi _).trans (keeps_loadVector _ _)
  · exact (keeps_stackTrap _ _ _).trans (keeps_loadVector _ _)

theorem keeps_sequenceStart (s : State) : Keeps s (sequenceStart s) :=
  (keeps_discardRead _ _).trans (keeps_discardRead _ _)

theorem keeps_irqSequence (s : State) : Keeps s (irqSequence s) :=
  (keeps_sequenceStart s).trans ((keeps_takeTrap _ _ _).trans (keeps_setOldI _ _))

theorem keeps_nmiSequence (s : State) : Keeps s (nmiSequence s) :=
  (keeps_sequenceStart s).trans <| (keeps_stackTrap _ _ _).trans <| (keeps_loadVector _ _).trans <|
    (keeps_clearNmi _).trans (keeps_setOldI _ _)

theorem keeps_returnFromTrap (s : State) : Keeps s (returnFromTrap s) :=
  (keeps_peekStack s).trans <| (keeps_pull _).trans <| (keeps_setP _ _).trans <| (keeps_pull _).trans <|
    (keeps_pull _).trans (keeps_setPc _ _)

theorem keeps_anyRegisters (s : State) : Keeps s (anyRegisters s) := .of_eq rfl rfl rfl rfl

theorem keeps_unspecifiedRegisters (s : State) : Keeps s (unspecifiedRegisters s) := .of_eq rfl rfl rfl rfl

theorem keeps_resetSequence (s : State) : Keeps s (resetSequence s) :=
  (keeps_sequenceStart s).trans <| (keeps_discardRead _ _).trans <| (keeps_discardRead _ _).trans <|
    (keeps_discardRead _ _).trans <| (keeps_loadVector _ _).trans <| (keeps_unspecifiedRegisters _).trans <|
    (keeps_clearNmi _).trans <| (keeps_setInReset _ _).trans (keeps_setOldI _ _)

end Sys2Proof.Machine
end

