-- ==== Sys2Proof/Laws/PerInstr.lean ====
section
/-! SUPPORT. Facts about the instructions as syntax, one lemma for each constructor. -/

namespace Sys2Proof.Laws.EncodedLength

/-- The words of the instruction are one well-formed instruction, of the length its opcode calls for. -/
def Statement (i : Instr) : Prop := i.wellFormed = true ∧ opcodeLength (opcode i) = some (instrLength i)

/-- What there is to check depends on the opcode and the number of operand bytes alone. -/
theorem of_opcode {i : Instr} {op : Byte} {n : Nat} (ho : opcode i = op) (hn : (operandBytes i).length = n)
    (hd : undefinedOpcodes.contains op = false) (hf : n + 1 = formatLength op)
    (hl : opcodeLength op = some (1 + n)) : Statement i := by
  subst ho hn
  exact ⟨by simp only [Instr.wellFormed, encode, wellFormedBytes, hd, hf]; simp, by rw [hl]; rfl⟩

theorem ldaIndX (v : Byte) : Statement (.ldaIndX v) :=
  of_opcode (op := 0xA1#8) (n := 1) rfl rfl (by decide) (by decide) (by decide)
theorem ldaZp (v : Byte) : Statement (.ldaZp v) :=
  of_opcode (op := 0xA5#8) (n := 1) rfl rfl (by decide) (by decide) (by decide)
theorem ldaImm (v : Byte) : Statement (.ldaImm v) :=
  of_opcode (op := 0xA9#8) (n := 1) rfl rfl (by decide) (by decide) (by decide)
theorem ldaAbs (v : Word) : Statement (.ldaAbs v) :=
  of_opcode (op := 0xAD#8) (n := 2) rfl rfl (by decide) (by decide) (by decide)
theorem ldaIndY (v : Byte) : Statement (.ldaIndY v) :=
  of_opcode (op := 0xB1#8) (n := 1) rfl rfl (by decide) (by decide) (by decide)
theorem ldaZpX (v : Byte) : Statement (.ldaZpX v) :=
  of_opcode (op := 0xB5#8) (n := 1) rfl rfl (by decide) (by decide) (by decide)
theorem ldaAbsY (v : Word) : Statement (.ldaAbsY v) :=
  of_opcode (op := 0xB9#8) (n := 2) rfl rfl (by decide) (by decide) (by decide)
theorem ldaAbsX (v : Word) : Statement (.ldaAbsX v) :=
  of_opcode (op := 0xBD#8) (n := 2) rfl rfl (by decide) (by decide) (by decide)
theorem ldxImm (v : Byte) : Statement (.ldxImm v) :=
  of_opcode (op := 0xA2#8) (n := 1) rfl rfl (by decide) (by decide) (by decide)
theorem ldxZp (v : Byte) : Statement (.ldxZp v) :=
  of_opcode (op := 0xA6#8) (n := 1) rfl rfl (by decide) (by decide) (by decide)
theorem ldxAbs (v : Word) : Statement (.ldxAbs v) :=
  of_opcode (op := 0xAE#8) (n := 2) rfl rfl (by decide) (by decide) (by decide)
theorem ldxZpY (v : Byte) : Statement (.ldxZpY v) :=
  of_opcode (op := 0xB6#8) (n := 1) rfl rfl (by decide) (by decide) (by decide)
theorem ldxAbsY (v : Word) : Statement (.ldxAbsY v) :=
  of_opcode (op := 0xBE#8) (n := 2) rfl rfl (by decide) (by decide) (by decide)
theorem ldyImm (v : Byte) : Statement (.ldyImm v) :=
  of_opcode (op := 0xA0#8) (n := 1) rfl rfl (by decide) (by decide) (by decide)
theorem ldyZp (v : Byte) : Statement (.ldyZp v) :=
  of_opcode (op := 0xA4#8) (n := 1) rfl rfl (by decide) (by decide) (by decide)
theorem ldyAbs (v : Word) : Statement (.ldyAbs v) :=
  of_opcode (op := 0xAC#8) (n := 2) rfl rfl (by decide) (by decide) (by decide)
theorem ldyZpX (v : Byte) : Statement (.ldyZpX v) :=
  of_opcode (op := 0xB4#8) (n := 1) rfl rfl (by decide) (by decide) (by decide)
theorem ldyAbsX (v : Word) : Statement (.ldyAbsX v) :=
  of_opcode (op := 0xBC#8) (n := 2) rfl rfl (by decide) (by decide) (by decide)
theorem staIndX (v : Byte) : Statement (.staIndX v) :=
  of_opcode (op := 0x81#8) (n := 1) rfl rfl (by decide) (by decide) (by decide)
theorem staZp (v : Byte) : Statement (.staZp v) :=
  of_opcode (op := 0x85#8) (n := 1) rfl rfl (by decide) (by decide) (by decide)
theorem staAbs (v : Word) : Statement (.staAbs v) :=
  of_opcode (op := 0x8D#8) (n := 2) rfl rfl (by decide) (by decide) (by decide)
theorem staIndY (v : Byte) : Statement (.staIndY v) :=
  of_opcode (op := 0x91#8) (n := 1) rfl rfl (by decide) (by decide) (by decide)
theorem staZpX (v : Byte) : Statement (.staZpX v) :=
  of_opcode (op := 0x95#8) (n := 1) rfl rfl (by decide) (by decide) (by decide)
theorem staAbsY (v : Word) : Statement (.staAbsY v) :=
  of_opcode (op := 0x99#8) (n := 2) rfl rfl (by decide) (by decide) (by decide)
theorem staAbsX (v : Word) : Statement (.staAbsX v) :=
  of_opcode (op := 0x9D#8) (n := 2) rfl rfl (by decide) (by decide) (by decide)
theorem stxZp (v : Byte) : Statement (.stxZp v) :=
  of_opcode (op := 0x86#8) (n := 1) rfl rfl (by decide) (by decide) (by decide)
theorem stxAbs (v : Word) : Statement (.stxAbs v) :=
  of_opcode (op := 0x8E#8) (n := 2) rfl rfl (by decide) (by decide) (by decide)
theorem stxZpY (v : Byte) : Statement (.stxZpY v) :=
  of_opcode (op := 0x96#8) (n := 1) rfl rfl (by decide) (by decide) (by decide)
theorem styZp (v : Byte) : Statement (.styZp v) :=
  of_opcode (op := 0x84#8) (n := 1) rfl rfl (by decide) (by decide) (by decide)
theorem styAbs (v : Word) : Statement (.styAbs v) :=
  of_opcode (op := 0x8C#8) (n := 2) rfl rfl (by decide) (by decide) (by decide)
theorem styZpX (v : Byte) : Statement (.styZpX v) :=
  of_opcode (op := 0x94#8) (n := 1) rfl rfl (by decide) (by decide) (by decide)
theorem tax : Statement .tax :=
  of_opcode (op := 0xAA#8) (n := 0) rfl rfl (by decide) (by decide) (by decide)
theorem tay : Statement .tay :=
  of_opcode (op := 0xA8#8) (n := 0) rfl rfl (by decide) (by decide) (by decide)
theorem txa : Statement .txa :=
  of_opcode (op := 0x8A#8) (n := 0) rfl rfl (by decide) (by decide) (by decide)
theorem tya : Statement .tya :=
  of_opcode (op := 0x98#8) (n := 0) rfl rfl (by decide) (by decide) (by decide)
theorem tsx : Statement .tsx :=
  of_opcode (op := 0xBA#8) (n := 0) rfl rfl (by decide) (by decide) (by decide)
theorem txs : Statement .txs :=
  of_opcode (op := 0x9A#8) (n := 0) rfl rfl (by decide) (by decide) (by decide)
theorem adcIndX (v : Byte) : Statement (.adcIndX v) :=
  of_opcode (op := 0x61#8) (n := 1) rfl rfl (by decide) (by decide) (by decide)
theorem adcZp (v : Byte) : Statement (.adcZp v) :=
  of_opcode (op := 0x65#8) (n := 1) rfl rfl (by decide) (by decide) (by decide)
theorem adcImm (v : Byte) : Statement (.adcImm v) :=
  of_opcode (op := 0x69#8) (n := 1) rfl rfl (by decide) (by decide) (by decide)
theorem adcAbs (v : Word) : Statement (.adcAbs v) :=
  of_opcode (op := 0x6D#8) (n := 2) rfl rfl (by decide) (by decide) (by decide)
theorem adcIndY (v : Byte) : Statement (.adcIndY v) :=
  of_opcode (op := 0x71#8) (n := 1) rfl rfl (by decide) (by decide) (by decide)
theorem adcZpX (v : Byte) : Statement (.adcZpX v) :=
  of_opcode (op := 0x75#8) (n := 1) rfl rfl (by decide) (by decide) (by decide)
theorem adcAbsY (v : Word) : Statement (.adcAbsY v) :=
  of_opcode (op := 0x79#8) (n := 2) rfl rfl (by decide) (by decide) (by decide)
theorem adcAbsX (v : Word) : Statement (.adcAbsX v) :=
  of_opcode (op := 0x7D#8) (n := 2) rfl rfl (by decide) (by decide) (by decide)
theorem sbcIndX (v : Byte) : Statement (.sbcIndX v) :=
  of_opcode (op := 0xE1#8) (n := 1) rfl rfl (by decide) (by decide) (by decide)
theorem sbcZp (v : Byte) : Statement (.sbcZp v) :=
  of_opcode (op := 0xE5#8) (n := 1) rfl rfl (by decide) (by decide) (by decide)
theorem sbcImm (v : Byte) : Statement (.sbcImm v) :=
  of_opcode (op := 0xE9#8) (n := 1) rfl rfl (by decide) (by decide) (by decide)
theorem sbcAbs (v : Word) : Statement (.sbcAbs v) :=
  of_opcode (op := 0xED#8) (n := 2) rfl rfl (by decide) (by decide) (by decide)
theorem sbcIndY (v : Byte) : Statement (.sbcIndY v) :=
  of_opcode (op := 0xF1#8) (n := 1) rfl rfl (by decide) (by decide) (by decide)
theorem sbcZpX (v : Byte) : Statement (.sbcZpX v) :=
  of_opcode (op := 0xF5#8) (n := 1) rfl rfl (by decide) (by decide) (by decide)
theorem sbcAbsY (v : Word) : Statement (.sbcAbsY v) :=
  of_opcode (op := 0xF9#8) (n := 2) rfl rfl (by decide) (by decide) (by decide)
theorem sbcAbsX (v : Word) : Statement (.sbcAbsX v) :=
  of_opcode (op := 0xFD#8) (n := 2) rfl rfl (by decide) (by decide) (by decide)
theorem cmpIndX (v : Byte) : Statement (.cmpIndX v) :=
  of_opcode (op := 0xC1#8) (n := 1) rfl rfl (by decide) (by decide) (by decide)
theorem cmpZp (v : Byte) : Statement (.cmpZp v) :=
  of_opcode (op := 0xC5#8) (n := 1) rfl rfl (by decide) (by decide) (by decide)
theorem cmpImm (v : Byte) : Statement (.cmpImm v) :=
  of_opcode (op := 0xC9#8) (n := 1) rfl rfl (by decide) (by decide) (by decide)
theorem cmpAbs (v : Word) : Statement (.cmpAbs v) :=
  of_opcode (op := 0xCD#8) (n := 2) rfl rfl (by decide) (by decide) (by decide)
theorem cmpIndY (v : Byte) : Statement (.cmpIndY v) :=
  of_opcode (op := 0xD1#8) (n := 1) rfl rfl (by decide) (by decide) (by decide)
theorem cmpZpX (v : Byte) : Statement (.cmpZpX v) :=
  of_opcode (op := 0xD5#8) (n := 1) rfl rfl (by decide) (by decide) (by decide)
theorem cmpAbsY (v : Word) : Statement (.cmpAbsY v) :=
  of_opcode (op := 0xD9#8) (n := 2) rfl rfl (by decide) (by decide) (by decide)
theorem cmpAbsX (v : Word) : Statement (.cmpAbsX v) :=
  of_opcode (op := 0xDD#8) (n := 2) rfl rfl (by decide) (by decide) (by decide)
theorem cpxImm (v : Byte) : Statement (.cpxImm v) :=
  of_opcode (op := 0xE0#8) (n := 1) rfl rfl (by decide) (by decide) (by decide)
theorem cpxZp (v : Byte) : Statement (.cpxZp v) :=
  of_opcode (op := 0xE4#8) (n := 1) rfl rfl (by decide) (by decide) (by decide)
theorem cpxAbs (v : Word) : Statement (.cpxAbs v) :=
  of_opcode (op := 0xEC#8) (n := 2) rfl rfl (by decide) (by decide) (by decide)
theorem cpyImm (v : Byte) : Statement (.cpyImm v) :=
  of_opcode (op := 0xC0#8) (n := 1) rfl rfl (by decide) (by decide) (by decide)
theorem cpyZp (v : Byte) : Statement (.cpyZp v) :=
  of_opcode (op := 0xC4#8) (n := 1) rfl rfl (by decide) (by decide) (by decide)
theorem cpyAbs (v : Word) : Statement (.cpyAbs v) :=
  of_opcode (op := 0xCC#8) (n := 2) rfl rfl (by decide) (by decide) (by decide)
theorem incZp (v : Byte) : Statement (.incZp v) :=
  of_opcode (op := 0xE6#8) (n := 1) rfl rfl (by decide) (by decide) (by decide)
theorem incAbs (v : Word) : Statement (.incAbs v) :=
  of_opcode (op := 0xEE#8) (n := 2) rfl rfl (by decide) (by decide) (by decide)
theorem incZpX (v : Byte) : Statement (.incZpX v) :=
  of_opcode (op := 0xF6#8) (n := 1) rfl rfl (by decide) (by decide) (by decide)
theorem incAbsX (v : Word) : Statement (.incAbsX v) :=
  of_opcode (op := 0xFE#8) (n := 2) rfl rfl (by decide) (by decide) (by decide)
theorem inx : Statement .inx :=
  of_opcode (op := 0xE8#8) (n := 0) rfl rfl (by decide) (by decide) (by decide)
theorem iny : Statement .iny :=
  of_opcode (op := 0xC8#8) (n := 0) rfl rfl (by decide) (by decide) (by decide)
theorem decZp (v : Byte) : Statement (.decZp v) :=
  of_opcode (op := 0xC6#8) (n := 1) rfl rfl (by decide) (by decide) (by decide)
theorem decAbs (v : Word) : Statement (.decAbs v) :=
  of_opcode (op := 0xCE#8) (n := 2) rfl rfl (by decide) (by decide) (by decide)
theorem decZpX (v : Byte) : Statement (.decZpX v) :=
  of_opcode (op := 0xD6#8) (n := 1) rfl rfl (by decide) (by decide) (by decide)
theorem decAbsX (v : Word) : Statement (.decAbsX v) :=
  of_opcode (op := 0xDE#8) (n := 2) rfl rfl (by decide) (by decide) (by decide)
theorem dex : Statement .dex :=
  of_opcode (op := 0xCA#8) (n := 0) rfl rfl (by decide) (by decide) (by decide)
theorem dey : Statement .dey :=
  of_opcode (op := 0x88#8) (n := 0) rfl rfl (by decide) (by decide) (by decide)
theorem andIndX (v : Byte) : Statement (.andIndX v) :=
  of_opcode (op := 0x21#8) (n := 1) rfl rfl (by decide) (by decide) (by decide)
theorem andZp (v : Byte) : Statement (.andZp v) :=
  of_opcode (op := 0x25#8) (n := 1) rfl rfl (by decide) (by decide) (by decide)
theorem andImm (v : Byte) : Statement (.andImm v) :=
  of_opcode (op := 0x29#8) (n := 1) rfl rfl (by decide) (by decide) (by decide)
theorem andAbs (v : Word) : Statement (.andAbs v) :=
  of_opcode (op := 0x2D#8) (n := 2) rfl rfl (by decide) (by decide) (by decide)
theorem andIndY (v : Byte) : Statement (.andIndY v) :=
  of_opcode (op := 0x31#8) (n := 1) rfl rfl (by decide) (by decide) (by decide)
theorem andZpX (v : Byte) : Statement (.andZpX v) :=
  of_opcode (op := 0x35#8) (n := 1) rfl rfl (by decide) (by decide) (by decide)
theorem andAbsY (v : Word) : Statement (.andAbsY v) :=
  of_opcode (op := 0x39#8) (n := 2) rfl rfl (by decide) (by decide) (by decide)
theorem andAbsX (v : Word) : Statement (.andAbsX v) :=
  of_opcode (op := 0x3D#8) (n := 2) rfl rfl (by decide) (by decide) (by decide)
theorem oraIndX (v : Byte) : Statement (.oraIndX v) :=
  of_opcode (op := 0x01#8) (n := 1) rfl rfl (by decide) (by decide) (by decide)
theorem oraZp (v : Byte) : Statement (.oraZp v) :=
  of_opcode (op := 0x05#8) (n := 1) rfl rfl (by decide) (by decide) (by decide)
theorem oraImm (v : Byte) : Statement (.oraImm v) :=
  of_opcode (op := 0x09#8) (n := 1) rfl rfl (by decide) (by decide) (by decide)
theorem oraAbs (v : Word) : Statement (.oraAbs v) :=
  of_opcode (op := 0x0D#8) (n := 2) rfl rfl (by decide) (by decide) (by decide)
theorem oraIndY (v : Byte) : Statement (.oraIndY v) :=
  of_opcode (op := 0x11#8) (n := 1) rfl rfl (by decide) (by decide) (by decide)
theorem oraZpX (v : Byte) : Statement (.oraZpX v) :=
  of_opcode (op := 0x15#8) (n := 1) rfl rfl (by decide) (by decide) (by decide)
theorem oraAbsY (v : Word) : Statement (.oraAbsY v) :=
  of_opcode (op := 0x19#8) (n := 2) rfl rfl (by decide) (by decide) (by decide)
theorem oraAbsX (v : Word) : Statement (.oraAbsX v) :=
  of_opcode (op := 0x1D#8) (n := 2) rfl rfl (by decide) (by decide) (by decide)
theorem eorIndX (v : Byte) : Statement (.eorIndX v) :=
  of_opcode (op := 0x41#8) (n := 1) rfl rfl (by decide) (by decide) (by decide)
theorem eorZp (v : Byte) : Statement (.eorZp v) :=
  of_opcode (op := 0x45#8) (n := 1) rfl rfl (by decide) (by decide) (by decide)
theorem eorImm (v : Byte) : Statement (.eorImm v) :=
  of_opcode (op := 0x49#8) (n := 1) rfl rfl (by decide) (by decide) (by decide)
theorem eorAbs (v : Word) : Statement (.eorAbs v) :=
  of_opcode (op := 0x4D#8) (n := 2) rfl rfl (by decide) (by decide) (by decide)
theorem eorIndY (v : Byte) : Statement (.eorIndY v) :=
  of_opcode (op := 0x51#8) (n := 1) rfl rfl (by decide) (by decide) (by decide)
theorem eorZpX (v : Byte) : Statement (.eorZpX v) :=
  of_opcode (op := 0x55#8) (n := 1) rfl rfl (by decide) (by decide) (by decide)
theorem eorAbsY (v : Word) : Statement (.eorAbsY v) :=
  of_opcode (op := 0x59#8) (n := 2) rfl rfl (by decide) (by decide) (by decide)
theorem eorAbsX (v : Word) : Statement (.eorAbsX v) :=
  of_opcode (op := 0x5D#8) (n := 2) rfl rfl (by decide) (by decide) (by decide)
theorem bitZp (v : Byte) : Statement (.bitZp v) :=
  of_opcode (op := 0x24#8) (n := 1) rfl rfl (by decide) (by decide) (by decide)
theorem bitAbs (v : Word) : Statement (.bitAbs v) :=
  of_opcode (op := 0x2C#8) (n := 2) rfl rfl (by decide) (by decide) (by decide)
theorem aslZp (v : Byte) : Statement (.aslZp v) :=
  of_opcode (op := 0x06#8) (n := 1) rfl rfl (by decide) (by decide) (by decide)
theorem aslAcc : Statement .aslAcc :=
  of_opcode (op := 0x0A#8) (n := 0) rfl rfl (by decide) (by decide) (by decide)
theorem aslAbs (v : Word) : Statement (.aslAbs v) :=
  of_opcode (op := 0x0E#8) (n := 2) rfl rfl (by decide) (by decide) (by decide)
theorem aslZpX (v : Byte) : Statement (.aslZpX v) :=
  of_opcode (op := 0x16#8) (n := 1) rfl rfl (by decide) (by decide) (by decide)
theorem aslAbsX (v : Word) : Statement (.aslAbsX v) :=
  of_opcode (op := 0x1E#8) (n := 2) rfl rfl (by decide) (by decide) (by decide)
theorem lsrZp (v : Byte) : Statement (.lsrZp v) :=
  of_opcode (op := 0x46#8) (n := 1) rfl rfl (by decide) (by decide) (by decide)
theorem lsrAcc : Statement .lsrAcc :=
  of_opcode (op := 0x4A#8) (n := 0) rfl rfl (by decide) (by decide) (by decide)
theorem lsrAbs (v : Word) : Statement (.lsrAbs v) :=
  of_opcode (op := 0x4E#8) (n := 2) rfl rfl (by decide) (by decide) (by decide)
theorem lsrZpX (v : Byte) : Statement (.lsrZpX v) :=
  of_opcode (op := 0x56#8) (n := 1) rfl rfl (by decide) (by decide) (by decide)
theorem lsrAbsX (v : Word) : Statement (.lsrAbsX v) :=
  of_opcode (op := 0x5E#8) (n := 2) rfl rfl (by decide) (by decide) (by decide)
theorem rolZp (v : Byte) : Statement (.rolZp v) :=
  of_opcode (op := 0x26#8) (n := 1) rfl rfl (by decide) (by decide) (by decide)
theorem rolAcc : Statement .rolAcc :=
  of_opcode (op := 0x2A#8) (n := 0) rfl rfl (by decide) (by decide) (by decide)
theorem rolAbs (v : Word) : Statement (.rolAbs v) :=
  of_opcode (op := 0x2E#8) (n := 2) rfl rfl (by decide) (by decide) (by decide)
theorem rolZpX (v : Byte) : Statement (.rolZpX v) :=
  of_opcode (op := 0x36#8) (n := 1) rfl rfl (by decide) (by decide) (by decide)
theorem rolAbsX (v : Word) : Statement (.rolAbsX v) :=
  of_opcode (op := 0x3E#8) (n := 2) rfl rfl (by decide) (by decide) (by decide)
theorem rorZp (v : Byte) : Statement (.rorZp v) :=
  of_opcode (op := 0x66#8) (n := 1) rfl rfl (by decide) (by decide) (by decide)
theorem rorAcc : Statement .rorAcc :=
  of_opcode (op := 0x6A#8) (n := 0) rfl rfl (by decide) (by decide) (by decide)
theorem rorAbs (v : Word) : Statement (.rorAbs v) :=
  of_opcode (op := 0x6E#8) (n := 2) rfl rfl (by decide) (by decide) (by decide)
theorem rorZpX (v : Byte) : Statement (.rorZpX v) :=
  of_opcode (op := 0x76#8) (n := 1) rfl rfl (by decide) (by decide) (by decide)
theorem rorAbsX (v : Word) : Statement (.rorAbsX v) :=
  of_opcode (op := 0x7E#8) (n := 2) rfl rfl (by decide) (by decide) (by decide)
theorem bcc (v : Byte) : Statement (.bcc v) :=
  of_opcode (op := 0x90#8) (n := 1) rfl rfl (by decide) (by decide) (by decide)
theorem bcs (v : Byte) : Statement (.bcs v) :=
  of_opcode (op := 0xB0#8) (n := 1) rfl rfl (by decide) (by decide) (by decide)
theorem beq (v : Byte) : Statement (.beq v) :=
  of_opcode (op := 0xF0#8) (n := 1) rfl rfl (by decide) (by decide) (by decide)
theorem bne (v : Byte) : Statement (.bne v) :=
  of_opcode (op := 0xD0#8) (n := 1) rfl rfl (by decide) (by decide) (by decide)
theorem bmi (v : Byte) : Statement (.bmi v) :=
  of_opcode (op := 0x30#8) (n := 1) rfl rfl (by decide) (by decide) (by decide)
theorem bpl (v : Byte) : Statement (.bpl v) :=
  of_opcode (op := 0x10#8) (n := 1) rfl rfl (by decide) (by decide) (by decide)
theorem bvc (v : Byte) : Statement (.bvc v) :=
  of_opcode (op := 0x50#8) (n := 1) rfl rfl (by decide) (by decide) (by decide)
theorem bvs (v : Byte) : Statement (.bvs v) :=
  of_opcode (op := 0x70#8) (n := 1) rfl rfl (by decide) (by decide) (by decide)
theorem jmpAbs (v : Word) : Statement (.jmpAbs v) :=
  of_opcode (op := 0x4C#8) (n := 2) rfl rfl (by decide) (by decide) (by decide)
theorem jmpInd (v : Word) : Statement (.jmpInd v) :=
  of_opcode (op := 0x6C#8) (n := 2) rfl rfl (by decide) (by decide) (by decide)
theorem jsr (v : Word) : Statement (.jsr v) :=
  of_opcode (op := 0x20#8) (n := 2) rfl rfl (by decide) (by decide) (by decide)
theorem rts : Statement .rts :=
  of_opcode (op := 0x60#8) (n := 0) rfl rfl (by decide) (by decide) (by decide)
theorem pha : Statement .pha :=
  of_opcode (op := 0x48#8) (n := 0) rfl rfl (by decide) (by decide) (by decide)
theorem php : Statement .php :=
  of_opcode (op := 0x08#8) (n := 0) rfl rfl (by decide) (by decide) (by decide)
theorem pla : Statement .pla :=
  of_opcode (op := 0x68#8) (n := 0) rfl rfl (by decide) (by decide) (by decide)
theorem plp : Statement .plp :=
  of_opcode (op := 0x28#8) (n := 0) rfl rfl (by decide) (by decide) (by decide)
theorem clc : Statement .clc :=
  of_opcode (op := 0x18#8) (n := 0) rfl rfl (by decide) (by decide) (by decide)
theorem sec : Statement .sec :=
  of_opcode (op := 0x38#8) (n := 0) rfl rfl (by decide) (by decide) (by decide)
theorem cli : Statement .cli :=
  of_opcode (op := 0x58#8) (n := 0) rfl rfl (by decide) (by decide) (by decide)
theorem sei : Statement .sei :=
  of_opcode (op := 0x78#8) (n := 0) rfl rfl (by decide) (by decide) (by decide)
theorem cld : Statement .cld :=
  of_opcode (op := 0xD8#8) (n := 0) rfl rfl (by decide) (by decide) (by decide)
theorem sed : Statement .sed :=
  of_opcode (op := 0xF8#8) (n := 0) rfl rfl (by decide) (by decide) (by decide)
theorem clv : Statement .clv :=
  of_opcode (op := 0xB8#8) (n := 0) rfl rfl (by decide) (by decide) (by decide)
theorem nop : Statement .nop :=
  of_opcode (op := 0xEA#8) (n := 0) rfl rfl (by decide) (by decide) (by decide)
theorem brk : Statement .brk :=
  of_opcode (op := 0x00#8) (n := 0) rfl rfl (by decide) (by decide) (by decide)
theorem rti : Statement .rti :=
  of_opcode (op := 0x40#8) (n := 0) rfl rfl (by decide) (by decide) (by decide)

end Sys2Proof.Laws.EncodedLength
end

