-- ==== Sys2Proof/Laws/Step.lean ====
section
/-! SUPPORT. What the fetch of an instruction, the sample of the pins and the edges inside a step can do, said once. -/

namespace Sys2Proof.Machine

/-! ## The fetch -/

/-- What a fetch that succeeds has done: read cycles, PC past the instruction, and the bytes it decoded. -/
theorem fetch_ok {s t : State} {i : Instr} (h : fetch s = .ok (i, t)) :
    ∃ b0 b1 b2 n u, b0 = (busRead true s.pc s).1 ∧ decode b0 b1 b2 = .ok i ∧ opcodeLength b0 = some n ∧
      ReadsOnly s u ∧ Keeps s u ∧ t = u.setPc (s.pc + BitVec.ofNat 16 n) := by
  have r0 := busRead_readsOnly true s.pc s
  have k0 := keeps_busRead true s.pc s
  simp only [fetch] at h
  split at h
  · cases h
  · next n hn =>
    split at h
    · cases h
    · next j hj =>
      injection h with h
      injection h with h1 h2
      subst h1 h2
      refine ⟨_, _, _, n, _, rfl, hj, hn, ?_, ?_, rfl⟩
      · have r1 := r0.trans (memRead_readsOnly (s.pc + 1) _)
        split
        · exact r1.trans (memRead_readsOnly _ _)
        · exact r1
      · have k1 := k0.trans (keeps_memRead (s.pc + 1) _)
        split
        · exact k1.trans (keeps_memRead _ _)
        · exact k1

/-- Why a fetch fails: the byte at PC is no opcode (30_encoding.md R85). -/
theorem fetch_error {s : State} {e : DecodeError} (h : fetch s = .error e) :
    e = .undefinedOpcode (busRead true s.pc s).1 ∧ opcodeLength (busRead true s.pc s).1 = none := by
  simp only [fetch] at h
  split at h
  · next hn => injection h with h; exact ⟨h.symm, hn⟩
  · next n hn =>
    split at h
    · next e' he =>
      obtain ⟨i, hi⟩ := decode_of_length hn _ _
      rw [hi] at he; cases he
    · cases h

/-- The cycle that reads the byte `k` bytes after PC from memory. -/
def fetchCycle (s : State) (k : Word) (sync : Bool) : BusCycle :=
  { addr := busAddr s.cfg.member (s.pc + k), write := false, data := s.peek (s.pc + k), sync := sync }

/-- A fetch from memory, with no DMA master (30_encoding.md R82, 70_reset_and_hazards.md R274). -/
theorem fetch_memory {s : State} {i : Instr} (hd : s.NoDma) (h0 : s.IsMemory s.pc) (h1 : s.IsMemory (s.pc + 1))
    (h2 : fetchCycles i = 3 → s.IsMemory (s.pc + 2))
    (h : decode (s.peek s.pc) (s.peek (s.pc + 1)) (s.peek (s.pc + 2)) = .ok i) :
    fetch s = .ok (i, (s.setEnv { s.env with
      trace := s.env.trace ++ [fetchCycle s 0 (hasSync s.cfg.member), fetchCycle s 1 false] ++
        (if instrLength i = 3 ∧ opcode i ≠ opcode (.jsr 0) then [fetchCycle s 2 false] else []) }).setPc
        (s.pc + BitVec.ofNat 16 (instrLength i))) := by
  obtain ⟨ho, -, hl, -⟩ := decode_spec h
  have z : s.pc + 0 = s.pc := BitVec.add_zero _
  have r0 := busRead_memory_eq true hd h0
  generalize ht : s.setEnv _ = t at r0
  have dt : t.NoDma := by rw [← ht]; exact hd
  have r1 : memRead (s.pc + 1) t = _ := busRead_memory_eq false dt (by rw [← ht]; exact h1)
  generalize hu : t.setEnv _ = u at r1
  have du : u.NoDma := by rw [← hu, ← ht]; exact hd
  have p1 : t.peek (s.pc + 1) = s.peek (s.pc + 1) := by rw [← ht]; rfl
  have p2 : u.peek (s.pc + 2) = s.peek (s.pc + 2) := by rw [← hu, ← ht]; rfl
  rw [p1] at r1 hu
  rw [← ho] at hl h
  by_cases h3 : instrLength i = 3 ∧ opcode i ≠ opcode (.jsr 0)
  · have r2 : memRead (s.pc + 2) u = _ := busRead_memory_eq false du (by
      rw [← hu, ← ht]; exact h2 (by simp only [fetchCycles, if_pos h3]))
    rw [p2] at r2
    simp only [fetch, r0, ← ho, hl, r1, if_pos h3, r2, h]
    simp only [← hu, ← ht, fetchCycle, Env.record, State.setEnv, State.setPc, z, Bool.true_and, Bool.false_and,
      List.append_assoc, List.cons_append, List.nil_append]
  · simp only [fetch, r0, ← ho, hl, r1, if_neg h3, p2, h]
    simp only [← hu, ← ht, fetchCycle, Env.record, State.setEnv, State.setPc, z, Bool.true_and, Bool.false_and,
      List.append_assoc, List.cons_append, List.nil_append, List.append_nil]

/-! ## The sample of the pins -/

@[simp] theorem nextSample_mem (s : State) : (nextSample s).mem = s.mem := by unfold nextSample; split <;> rfl
@[simp] theorem nextSample_cfg (s : State) : (nextSample s).cfg = s.cfg := by unfold nextSample; split <;> rfl
@[simp] theorem nextSample_nmiPending (s : State) : (nextSample s).nmiPending = s.nmiPending := by
  unfold nextSample; split <;> rfl
@[simp] theorem nextSample_dma (s : State) : (nextSample s).env.dma = s.env.dma := by unfold nextSample; split <;> rfl
@[simp] theorem nextSample_trace (s : State) : (nextSample s).env.trace = [] := by unfold nextSample; split <;> rfl

@[simp] theorem sampled_mem (s : State) : s.sampled.mem = s.mem := nextSample_mem s
@[simp] theorem sampled_cfg (s : State) : s.sampled.cfg = s.cfg := nextSample_cfg s
@[simp] theorem sampled_trace (s : State) : s.sampled.env.trace = [] := nextSample_trace s
@[simp] theorem sampled_peek (s : State) (addr : Word) : s.sampled.peek addr = s.peek addr := by
  simp only [State.peek, sampled_mem, sampled_cfg]

/-- An NMI is pending after the sample because it was, or because an edge has come on a member with the pin. -/
theorem sampled_nmiPending (s : State) :
    s.sampled.nmiPending = (s.nmiPending || (hasNmi s.cfg.member && s.sampled.env.now.nmiEdge)) := by
  show ((nextSample s).nmiPending || (hasNmi (nextSample s).cfg.member && _)) = _
  rw [nextSample_nmiPending, nextSample_cfg]; rfl

/-- Where no line asks for anything, the sample changes nothing but the trace (60_exceptions.md R226). -/
theorem sampled_of_no_samples {s : State} (h : s.env.samples = []) :
    s.sampled = s.setEnv { s.env with now := Sample.idle, trace := [] } := by
  have e : nextSample s = s.setEnv { s.env with now := Sample.idle, trace := [] } := by
    unfold nextSample; rw [h]
  rw [State.sampled, e, applyEdges]
  simp only [State.setEnv_env, State.setEnv_nmiPending, State.setEnv_cfg, State.setEnv_p, Sample.idle, Bool.and_false,
    Bool.or_false]
  rfl

/-! ## The edges inside a step -/

/-- A step with no edge in it leaves nothing behind. -/
theorem afterStep_of_noEdge {s : State} (h : s.NoEdgeDuring) (t : State) : afterStep s t = t := by
  obtain ⟨hn, hv, hr⟩ := h
  simp only [afterStep, cutOffByRes, setVDuring, latchNmi, hn, hv, hr, Bool.and_false, Bool.or_false, Bool.false_and]
  rfl

/-- All that an NMI edge during a step leaves behind: the latch, on a member with the pin (10_state.md R34). -/
theorem latchNmi_eq (x : Sample) (s : State) :
    latchNmi x s = s.setNmiPending
      (s.nmiPending || (x.nmiDuring && s.env.now.nmiDuring && hasNmi s.cfg.member)) := by
  unfold latchNmi
  cases h : x.nmiDuring && s.env.now.nmiDuring && hasNmi s.cfg.member <;> simp [State.setNmiPending]

/-- All that edges of NMI and S.O. during a step leave behind: the latch and V, each on a member with the pin. -/
theorem afterStep_of_noRes {s : State} (h : s.env.now.resDuring = none) (t : State) :
    afterStep s t = (t.setNmiPending
      (t.nmiPending || (s.env.now.nmiDuring && t.env.now.nmiDuring && hasNmi t.cfg.member))).setP
      { t.p with v := t.p.v || (hasSo t.cfg.member && s.env.now.soDuring) } := by
  simp only [afterStep, cutOffByRes, h, latchNmi_eq, setVDuring, State.setNmiPending_p, State.setNmiPending_cfg]

/-! ### RES -/

theorem replayCycle_trace (s : State) (c : BusCycle) : (replayCycle s c).env.trace = s.env.trace ++ [c] := by
  simp only [replayCycle, State.setEnv_env, Env.record]
  split
  · rw [poke_env]
  · rw [State.setEnv_env, Env.afterRead_trace, dmaCycle_trace]

/-- The cycles that happen again are those the trace shows. -/
theorem replayCycles_trace (cs : List BusCycle) (s : State) :
    (cs.foldl replayCycle s).env.trace = s.env.trace ++ cs := by
  induction cs generalizing s with
  | nil => exact (List.append_nil _).symm
  | cons c cs ih => rw [List.foldl_cons, ih, replayCycle_trace, List.append_assoc]; rfl

theorem scrambleByte_trace (s : State) (c : BusCycle) : (scrambleByte s c).env.trace = s.env.trace := by
  unfold scrambleByte
  split
  · simp only [State.useFree, State.setEnv_env, poke_env]
  · rfl

theorem scrambleBytes_trace (cs : List BusCycle) (s : State) : (cs.foldl scrambleByte s).env.trace = s.env.trace := by
  induction cs generalizing s with
  | nil => rfl
  | cons c cs ih => rw [List.foldl_cons, ih, scrambleByte_trace]

theorem keeps_scrambleByte (s : State) {c : BusCycle} (h : c.addr < 2 ^ addressPins s.cfg.member) :
    Keeps s (scrambleByte s c) := by
  unfold scrambleByte
  split
  · exact (keeps_poke s _ h).trans (keeps_useFree _ _)
  · exact .refl s

theorem keeps_replayCycle (s : State) {c : BusCycle} (h : c.addr < 2 ^ addressPins s.cfg.member) :
    Keeps s (replayCycle s c) := by
  unfold replayCycle
  dsimp only
  split
  · have k := keeps_poke s c.data h
    exact k.trans (keeps_record _ rfl (by rw [k.cfg]; exact h))
  · have k := (keeps_dmaCycle s).trans
      (keeps_setEnv _ (Env.afterRead_trace (dmaCycle s).env (kindAt (dmaCycle s).cfg.map c.addr)))
    exact k.trans (keeps_record _ rfl (by rw [k.cfg]; exact h))

/-- What every cycle of a list keeps, the list keeps. -/
theorem keeps_foldl {f : State → BusCycle → State}
    (hf : ∀ (s : State) (c : BusCycle), c.addr < 2 ^ addressPins s.cfg.member → Keeps s (f s c)) (cs : List BusCycle)
    (s : State) (h : ∀ c ∈ cs, c.addr < 2 ^ addressPins s.cfg.member) : Keeps s (cs.foldl f s) := by
  induction cs generalizing s with
  | nil => exact .refl s
  | cons c cs ih =>
    have k := hf s c (h c (by simp))
    exact k.trans (ih _ fun d hd => by rw [k.cfg]; exact h d (List.mem_cons_of_mem _ hd))

theorem keeps_stoppedRegisters (s : State) : Keeps s (stoppedRegisters s) := .of_eq rfl rfl rfl rfl

theorem replayCycle_cfg (s : State) (c : BusCycle) : (replayCycle s c).cfg = s.cfg := by
  unfold replayCycle
  dsimp only
  split
  · exact (poke_sameCpu s _ _).cfg
  · exact (dmaCycle_sameCpu s).cfg

theorem scrambleByte_cfg (s : State) (c : BusCycle) : (scrambleByte s c).cfg = s.cfg := by
  unfold scrambleByte
  split
  · exact (poke_sameCpu s _ _).cfg
  · rfl

/-- All that a cycle can do once RES is low: a write does nothing, and a read happens, with the byte it has in the whole step
or, where the step was to write that byte of RAM before, with any (93_implementation_defined.md U6). -/
theorem cycleUnderRes_spec (before later : List BusCycle) (s : State) (c : BusCycle) :
    (c.write = true ∧ cycleUnderRes before s c = s) ∨
      ∃ d k, c.write = false ∧ d.write = false ∧ d.addr = c.addr ∧
        ShownUnderRes s.cfg (before ++ c :: later) (c, before.length) d ∧
        cycleUnderRes before s c = (replayCycle s d).useFree k := by
  unfold cycleUnderRes
  split
  · next h => exact .inl ⟨h, rfl⟩
  · next h =>
    rw [Bool.not_eq_true] at h
    split
    · next w =>
      simp only [writtenBefore, Bool.and_eq_true, beq_iff_eq, List.any_eq_true] at w
      obtain ⟨hk, b, hb, hw, ha⟩ := w
      exact .inr ⟨{ c with data := Config.freeByte s.env.free }, 1, h, h, rfl,
        .inr ⟨⟨_, rfl⟩, hk, b, by rw [List.take_left]; exact hb, hw, ha⟩, rfl⟩
    · exact .inr ⟨c, 0, h, h, rfl, .inl rfl, rfl⟩

/-- What every cycle keeps once RES is low, all of them keep. -/
theorem goOnUnderRes_keeps {P : State → Prop} (cs : List BusCycle)
    (hP : ∀ (u : State) (d : BusCycle) (k : Nat), (∃ c ∈ cs, d.addr = c.addr) → d.write = false → P u →
      P ((replayCycle u d).useFree k)) (before : List BusCycle) (s : State) (h : P s) : P (goOnUnderRes before cs s) := by
  induction cs generalizing before s with
  | nil => exact h
  | cons c cs ih =>
    refine ih (fun u d k hd => hP u d k ?_) _ _ ?_
    · obtain ⟨c', hc, e⟩ := hd
      exact ⟨c', List.mem_cons_of_mem _ hc, e⟩
    · rcases cycleUnderRes_spec before cs s c with ⟨-, e⟩ | ⟨d, k, -, hd, ha, -, e⟩
      · rw [e]; exact h
      · rw [e]; exact hP s d k ⟨c, by simp, ha⟩ hd h

/-- Once RES is low, the bus shows the reads the processor goes on for, and no write (60_exceptions.md R238). -/
theorem goOnUnderRes_trace (cs before rest : List BusCycle) (s : State) :
    ∃ seen, (goOnUnderRes before cs s).env.trace = s.env.trace ++ seen ∧
      List.Forall₂ (ShownUnderRes s.cfg (before ++ cs ++ rest))
        ((cs.zipIdx before.length).filter (fun c => c.1.write = false)) seen := by
  induction cs generalizing before s with
  | nil => exact ⟨[], (List.append_nil _).symm, .nil⟩
  | cons c cs ih =>
    obtain ⟨seen, ht, hf⟩ := ih (before ++ [c]) (cycleUnderRes before s c)
    rw [List.length_append, List.length_singleton, List.append_assoc before, List.singleton_append] at hf
    rcases cycleUnderRes_spec before (cs ++ rest) s c with ⟨hw, e⟩ | ⟨d, k, hw, -, -, hd, e⟩
    · rw [e] at hf
      refine ⟨seen, by rw [goOnUnderRes, ht, e], ?_⟩
      rw [List.zipIdx_cons, List.filter_cons_of_neg (by simp [hw])]
      exact hf
    · have hc : (cycleUnderRes before s c).cfg = s.cfg := by rw [e]; exact replayCycle_cfg s d
      rw [hc] at hf
      refine ⟨d :: seen, ?_, ?_⟩
      · rw [goOnUnderRes, ht, e]
        show (replayCycle s d).env.trace ++ seen = _
        rw [replayCycle_trace, List.append_assoc]; rfl
      · rw [List.zipIdx_cons, List.filter_cons_of_pos (by simp [hw])]
        exact .cons (by simpa only [List.append_assoc, List.cons_append] using hd) hf

theorem mem_goingOn {r : ResFall} {cs : List BusCycle} {c : BusCycle}
    (h : c ∈ (cs.drop (r.after + 1)).take r.goesOn) : c ∈ cs := List.mem_of_mem_drop (List.mem_of_mem_take h)

/-- All that RES during a step can do to the platform and to memory: what the step's own cycles can. -/
theorem keeps_cutOffByRes {s t : State} {r : ResFall} (hr : s.env.now.resDuring = some r)
    (h : ∀ c ∈ t.env.trace, c.addr < 2 ^ addressPins s.cfg.member) : Keeps s (cutOffByRes s t) := by
  simp only [cutOffByRes, hr, replayUntilRes]
  have k := keeps_foldl (f := replayCycle) (fun s c hc => keeps_replayCycle s hc) (t.env.trace.take (r.after + 1)) s
    fun c hc => h c (List.mem_of_mem_take hc)
  have k1 := goOnUnderRes_keeps (P := fun u => Keeps s u) ((t.env.trace.drop (r.after + 1)).take r.goesOn)
    (fun u d n hd _ hu => by
      obtain ⟨c, hc, e⟩ := hd
      exact (hu.trans (keeps_replayCycle u (by rw [hu.cfg, e]; exact h c (mem_goingOn hc)))).trans (keeps_useFree _ n))
    (t.env.trace.take (r.after + 1)) _ k
  have k2 := keeps_foldl (f := scrambleByte) (fun s c hc => keeps_scrambleByte s hc) t.env.trace _
    fun c hc => by rw [k1.cfg]; exact h c hc
  exact (k1.trans k2).trans ((keeps_stoppedRegisters _).trans (keeps_setInReset _ _))

theorem replayCycles_cfg (cs : List BusCycle) (s : State) : (cs.foldl replayCycle s).cfg = s.cfg := by
  induction cs generalizing s with
  | nil => rfl
  | cons c cs ih => exact (ih _).trans (replayCycle_cfg s c)

theorem scrambleBytes_cfg (cs : List BusCycle) (s : State) : (cs.foldl scrambleByte s).cfg = s.cfg := by
  induction cs generalizing s with
  | nil => rfl
  | cons c cs ih => exact (ih _).trans (scrambleByte_cfg s c)

/-- RES during a step leaves the platform alone. -/
theorem cutOffByRes_cfg {s t : State} {r : ResFall} (hr : s.env.now.resDuring = some r) :
    (cutOffByRes s t).cfg = s.cfg := by
  simp only [cutOffByRes, hr, replayUntilRes]
  refine (scrambleBytes_cfg _ _).trans ?_
  exact goOnUnderRes_keeps (P := fun u => u.cfg = s.cfg) _ (fun u d _ _ _ hu => (replayCycle_cfg u d).trans hu) _ _
    (replayCycles_cfg _ s)

/-- RES during a step leaves on the bus the cycles until then and the reads for which the processor goes on
(60_exceptions.md R238). -/
theorem cutOffByRes_trace {s t : State} {r : ResFall} (hr : s.env.now.resDuring = some r) :
    ∃ seen, (cutOffByRes s t).env.trace = s.env.trace ++ t.env.trace.take (r.after + 1) ++ seen ∧
      List.Forall₂ (ShownUnderRes s.cfg t.env.trace)
        ((((t.env.trace.drop (r.after + 1)).take r.goesOn).zipIdx (r.after + 1)).filter (fun c => c.1.write = false))
        seen := by
  have e : (cutOffByRes s t).env.trace = (replayUntilRes r t.env.trace s).env.trace := by
    simp only [cutOffByRes, hr, State.setInReset_env, stoppedRegisters, anyRegisters, State.useFree, State.setEnv_env,
      State.setPc_env, State.setP_env, State.setSp_env, State.setY_env, State.setX_env, State.setA_env]
    exact scrambleBytes_trace _ _
  obtain ⟨seen, ht, hf⟩ := goOnUnderRes_trace ((t.env.trace.drop (r.after + 1)).take r.goesOn)
    (t.env.trace.take (r.after + 1)) ((t.env.trace.drop (r.after + 1)).drop r.goesOn)
    ((t.env.trace.take (r.after + 1)).foldl replayCycle s)
  refine ⟨seen, by rw [e, replayUntilRes, ht, replayCycles_trace], ?_⟩
  rw [List.append_assoc, List.take_append_drop, List.take_append_drop, replayCycles_cfg] at hf
  by_cases hl : r.after + 1 ≤ t.env.trace.length
  · rwa [List.length_take, Nat.min_eq_left hl] at hf
  · have hz : t.env.trace.drop (r.after + 1) = [] := List.drop_eq_nil_of_le (by omega)
    rw [hz, List.take_nil] at hf ⊢
    exact hf

/-- Cycles that make no DMA write and do not write a byte leave it alone. -/
theorem replayCycle_read {s : State} (hd : s.NoDma) {c : BusCycle} {n : Nat} (h : c.write = true → c.addr ≠ n) :
    (replayCycle s c).mem.read n = s.mem.read n ∧ (replayCycle s c).NoDma := by
  unfold replayCycle
  dsimp only
  split
  · next hw =>
    refine ⟨?_, ?_⟩
    · show (s.poke c.addr c.data).mem.read n = _
      rw [poke_read, if_neg fun e => h hw e.1.symm]
    · show ((s.poke c.addr c.data).env.record c).dma = []
      rw [poke_env]; exact hd
  · rw [dmaCycle_of_noDma hd]
    exact ⟨rfl, (Env.afterRead_dma s.env _).trans hd⟩

theorem replayCycles_read {n : Nat} (cs : List BusCycle) (s : State) (hd : s.NoDma)
    (h : ∀ c ∈ cs, c.write = true → c.addr ≠ n) :
    (cs.foldl replayCycle s).mem.read n = s.mem.read n ∧ (cs.foldl replayCycle s).NoDma := by
  induction cs generalizing s with
  | nil => exact ⟨rfl, hd⟩
  | cons c cs ih =>
    obtain ⟨e, d⟩ := replayCycle_read hd (h c (by simp))
    obtain ⟨e', d'⟩ := ih _ d fun c' h' => h c' (List.mem_cons_of_mem _ h')
    exact ⟨e'.trans e, d'⟩

theorem scrambleByte_read (s : State) {c : BusCycle} {n : Nat} (h : c.write = true → c.addr ≠ n) :
    (scrambleByte s c).mem.read n = s.mem.read n := by
  unfold scrambleByte
  split
  · next hw => exact (poke_read s c.addr n _).trans (if_neg fun e => h hw e.1.symm)
  · rfl

theorem scrambleBytes_read {n : Nat} (cs : List BusCycle) (s : State) (h : ∀ c ∈ cs, c.write = true → c.addr ≠ n) :
    (cs.foldl scrambleByte s).mem.read n = s.mem.read n := by
  induction cs generalizing s with
  | nil => rfl
  | cons c cs ih => exact (ih _ fun c' h' => h c' (List.mem_cons_of_mem _ h')).trans (scrambleByte_read s (h c (by simp)))

/-- A byte of memory that the step would not have written is as before (93_implementation_defined.md U6). -/
theorem cutOffByRes_read {s t : State} {r : ResFall} (hr : s.env.now.resDuring = some r) (hd : s.NoDma) {n : Nat}
    (h : ∀ c ∈ t.env.trace, c.write = true → c.addr ≠ n) : (cutOffByRes s t).mem.read n = s.mem.read n := by
  simp only [cutOffByRes, hr, replayUntilRes]
  refine (scrambleBytes_read _ _ h).trans ?_
  exact (goOnUnderRes_keeps (P := fun u => u.mem.read n = s.mem.read n ∧ u.NoDma) _
    (fun u d _ _ hw hu => by
      obtain ⟨e, k⟩ := replayCycle_read (n := n) hu.2 (c := d) (fun w => by rw [hw] at w; cases w)
      exact ⟨e.trans hu.1, k⟩)
    _ _ (replayCycles_read _ s hd fun c hc => h c (List.mem_of_mem_take hc))).1

/-! ## The step, boundary by boundary (60_exceptions.md R226) -/

theorem step_held {s : State} (h : recognise s.sampled = .held) : step s = .next (holdInReset s.sampled) := by
  rw [State.sampled] at h ⊢; simp only [step, atBoundary, perform, h, if_true]

/-- Every step but one in which the processor is held: what it performs, and then the edges inside it. -/
theorem step_perform {s t : State} (h : recognise s.sampled ≠ .held) (hp : perform s.sampled = .next t) :
    step s = .next (afterStep s.sampled t) := by
  rw [State.sampled] at h hp ⊢; simp only [step, atBoundary, hp, if_neg h]

theorem perform_reset {s : State} (h : recognise s = .reset) : perform s = .next (resetSequence s) := by
  rw [perform, h]

theorem perform_halted {s : State} (h : recognise s = .halted) : perform s = .next s := by rw [perform, h]

theorem perform_nmi {s : State} (h : recognise s = .nmi) : perform s = .next (nmiSequence s) := by rw [perform, h]

theorem perform_irq {s : State} (h : recognise s = .irq) : perform s = .next (irqSequence s) := by rw [perform, h]

/-- An instruction is performed, once its fetch is known. -/
theorem perform_instruction {s u : State} {i : Instr} (h : recognise s = .instruction) (hf : fetch s = .ok (i, u)) :
    perform s = exec i (u.setOldI none) := by simp only [perform, h, runInstruction, hf]

theorem step_reset {s : State} (h : recognise s.sampled = .reset) :
    step s = .next (afterStep s.sampled (resetSequence s.sampled)) :=
  step_perform (by rw [h]; decide) (perform_reset h)

theorem step_halted {s : State} (h : recognise s.sampled = .halted) : step s = .next (afterStep s.sampled s.sampled) :=
  step_perform (by rw [h]; decide) (perform_halted h)

theorem step_nmi {s : State} (h : recognise s.sampled = .nmi) :
    step s = .next (afterStep s.sampled (nmiSequence s.sampled)) :=
  step_perform (by rw [h]; decide) (perform_nmi h)

theorem step_irq {s : State} (h : recognise s.sampled = .irq) :
    step s = .next (afterStep s.sampled (irqSequence s.sampled)) :=
  step_perform (by rw [h]; decide) (perform_irq h)

/-- A step that runs an instruction, once its fetch is known. -/
theorem step_instruction {s u t : State} {i : Instr} (h : recognise s.sampled = .instruction)
    (hf : fetch s.sampled = .ok (i, u)) (he : exec i (u.setOldI none) = .next t) :
    step s = .next (afterStep s.sampled t) :=
  step_perform (by rw [h]; decide) ((perform_instruction h hf).trans he)

/-- A step that meets an undefined opcode (30_encoding.md R85). -/
theorem step_undefined {s : State} {b : Byte} (h : recognise s.sampled = .instruction)
    (hf : fetch s.sampled = .error (.undefinedOpcode b)) : step s = .refused (.undefinedOpcode b) := by
  rw [State.sampled] at h hf; simp only [step, atBoundary, perform, h, runInstruction, hf]

/-- All that a step can do, if it answers a next state. -/
theorem step_cases {s t : State} (h : step s = .next t) :
    (recognise s.sampled = .held ∧ t = holdInReset s.sampled) ∨
    (recognise s.sampled = .reset ∧ t = afterStep s.sampled (resetSequence s.sampled)) ∨
    (recognise s.sampled = .halted ∧ t = afterStep s.sampled s.sampled) ∨
    (recognise s.sampled = .nmi ∧ t = afterStep s.sampled (nmiSequence s.sampled)) ∨
    (recognise s.sampled = .irq ∧ t = afterStep s.sampled (irqSequence s.sampled)) ∨
    (recognise s.sampled = .instruction ∧ ∃ i u v, fetch s.sampled = .ok (i, u) ∧
      exec i (u.setOldI none) = .next v ∧ t = afterStep s.sampled v) := by
  cases hb : recognise s.sampled with
  | held => rw [step_held hb] at h; injection h with h; simp [h]
  | reset => rw [step_reset hb] at h; injection h with h; simp [h]
  | halted => rw [step_halted hb] at h; injection h with h; simp [h]
  | nmi => rw [step_nmi hb] at h; injection h with h; simp [h]
  | irq => rw [step_irq hb] at h; injection h with h; simp [h]
  | instruction =>
    cases hf : fetch s.sampled with
    | error e =>
      obtain ⟨rfl, -⟩ := fetch_error hf
      rw [step_undefined hb hf] at h; cases h
    | ok r =>
      cases he : exec r.1 (r.2.setOldI none) with
      | next v =>
        rw [step_instruction hb hf he] at h; injection h with h
        exact .inr <| .inr <| .inr <| .inr <| .inr ⟨rfl, r.1, r.2, v, rfl, he, h.symm⟩
      | fault e => nomatch e
      | refused e =>
        have hp := (perform_instruction hb hf).trans he
        rw [State.sampled] at hp
        simp only [step, atBoundary, hp] at h; cases h

end Sys2Proof.Machine
end

