-- ==== Sys2Proof/Laws/Trace.lean ====
section
/-! SUPPORT. Which bus cycles each operation makes, and how many (70_reset_and_hazards.md R274). -/

namespace Sys2Proof.Machine

/-! ## Which cycles -/

/-- A cycle looks the same to a device wherever the platform is the same. -/
theorem SameCpu.readCycle {s t : State} (h : SameCpu s t) (addr : Word) (v : Byte) :
    readCycle t addr v = readCycle s addr v := by simp only [Machine.readCycle, h.cfg]

theorem SameCpu.writeCycle {s t : State} (h : SameCpu s t) (addr : Word) (v : Byte) :
    writeCycle t addr v = writeCycle s addr v := by simp only [Machine.writeCycle, h.cfg]

@[simp] theorem readCycle_push (b : Byte) (s : State) (addr : Word) (v : Byte) :
    readCycle (push b s) addr v = readCycle s addr v := by simp only [readCycle, push_cfg]

@[simp] theorem writeCycle_push (b : Byte) (s : State) (addr : Word) (v : Byte) :
    writeCycle (push b s) addr v = writeCycle s addr v := by simp only [writeCycle, push_cfg]

@[simp] theorem readCycle_stackTrap (b : Bool) (ret : Word) (s : State) (addr : Word) (v : Byte) :
    readCycle (stackTrap b ret s) addr v = readCycle s addr v := by simp only [readCycle, stackTrap_cfg]

theorem discardRead_trace (addr : Word) (s : State) :
    (discardRead addr s).env.trace = s.env.trace ++ [readCycle s addr (memRead addr s).1] := memRead_trace addr s

theorem push_trace (v : Byte) (s : State) :
    (push v s).env.trace = s.env.trace ++ [writeCycle s (stackAddr s.sp) v] := memWrite_trace _ _ _

theorem pull_trace (s : State) :
    (pull s).2.env.trace = s.env.trace ++ [readCycle s (stackAddr (s.sp + 1)) (pull s).1] :=
  memRead_trace _ (s.setSp (s.sp + 1))

theorem peekStack_trace (s : State) :
    (peekStack s).env.trace = s.env.trace ++ [readCycle s (stackAddr s.sp) (memRead (stackAddr s.sp) s).1] :=
  memRead_trace _ _

/-- A store makes one write cycle after those that find its operand (20_memory.md R54). -/
theorem storeOperand_trace (m : MemOperand) (v : Byte) (s : State) :
    (storeOperand m v s).env.trace =
      (effectiveAddr .modify m s).2.env.trace ++ [writeCycle s (effectiveAddr .modify m s).1 v] := by
  rw [← (effectiveAddr_readsOnly .modify m s).toSameCpu.writeCycle]
  exact memWrite_trace _ _ _

/-- A read-modify-write makes three cycles after those that find its operand (20_memory.md R58 c). -/
theorem modifyOperand_trace (m : MemOperand) (f : Byte → Flags → Byte × Flags) (s : State) :
    let ea := effectiveAddr .modify m s
    let old := (memRead ea.1 ea.2).1
    (modifyOperand m f s).env.trace = ea.2.env.trace ++
      [readCycle s ea.1 old, writeCycle s ea.1 old, writeCycle s ea.1 (f old s.p).1] := by
  have h := (effectiveAddr_readsOnly .modify m s).toSameCpu
  simp only [modifyOperand, State.setP_env, memWrite_trace, memRead_trace, memWrite_cfg, memRead_cfg, h.cfg, readCycle,
    writeCycle, List.append_assoc, List.cons_append, List.nil_append]

theorem jumpPointer_trace (ptr : Word) (s : State) :
    ∃ lo hi, (jumpPointer ptr s).1 = joinBytes hi lo ∧
      (jumpPointer ptr s).2.env.trace = s.env.trace ++ [readCycle s ptr lo, readCycle s (uncarried ptr 1) hi] := by
  refine ⟨(memRead ptr s).1, (memRead (uncarried ptr 1) (memRead ptr s).2).1, rfl, ?_⟩
  simp only [jumpPointer, memRead_trace, memRead_cfg, readCycle, List.append_assoc, List.cons_append, List.nil_append]

/-- Loading a vector makes two read cycles, low byte first, and PC is the bytes they return (20_memory.md R55). -/
theorem loadVector_cycles (vec : Word) (s : State) :
    ∃ lo hi, (loadVector vec s).cpu = { s.cpu with pc := joinBytes hi lo } ∧
      (loadVector vec s).env.trace = s.env.trace ++ [readCycle s vec lo, readCycle s (vec + 1) hi] ∧
      (s.NoDma → (s.IsMemory vec → lo = s.peek vec) ∧ (s.IsMemory (vec + 1) → hi = s.peek (vec + 1))) := by
  have h := memRead_readsOnly vec s
  refine ⟨(memRead vec s).1, (memRead (vec + 1) (memRead vec s).2).1, ?_, ?_, fun d => ⟨fun m => ?_, fun m => ?_⟩⟩
  · simp only [loadVector, State.setPc_cpu, memRead_cpu]
  · simp only [loadVector, State.setPc_env, memRead_trace, memRead_cfg, readCycle, List.append_assoc, List.cons_append,
      List.nil_append]
  · exact memRead_memory d m
  · rw [memRead_memory (h.noDma d) (h.toSameCpu.isMemory.mpr m), h.peek d]

/-- Stacking a trap makes three write cycles (60_exceptions.md R230). -/
theorem stackTrap_trace (b : Bool) (ret : Word) (s : State) :
    (stackTrap b ret s).env.trace = s.env.trace ++
      [writeCycle s (stackAddr s.sp) (hiByte ret), writeCycle s (stackAddr (s.sp - 1)) (loByte ret),
       writeCycle s (stackAddr (s.sp - 2)) (packP s.p b)] := by
  have e : s.sp - 1 - 1 = s.sp - 2 := by bv_omega
  simp only [stackTrap, State.setP_env, push_trace, push_sp, push_p, writeCycle_push, e, List.append_assoc,
    List.cons_append, List.nil_append]

theorem sequenceStart_trace (s : State) :
    ∃ x y, (sequenceStart s).env.trace = s.env.trace ++ [readCycle s s.pc x, readCycle s s.pc y] := by
  refine ⟨(memRead s.pc s).1, (memRead s.pc (discardRead s.pc s)).1, ?_⟩
  simp only [sequenceStart, discardRead_trace, (discardRead_readsOnly s.pc s).toSameCpu.readCycle, List.append_assoc,
    List.cons_append, List.nil_append]

/-! ## How many -/

/-- `t` comes after `s` and `k` bus cycles. -/
def Cycles (k : Nat) (s t : State) : Prop := t.env.trace.length = s.env.trace.length + k

theorem Cycles.trans {j k : Nat} {s t u : State} (h : Cycles j s t) (h' : Cycles k t u) : Cycles (j + k) s u := by
  simp only [Cycles] at *; omega

/-- What does not touch the trace makes no cycle. -/
theorem Cycles.none {s t : State} (h : t.env.trace = s.env.trace) : Cycles 0 s t := by simp only [Cycles, h, Nat.add_zero]

theorem cycles_setP (s : State) (v : Flags) : Cycles 0 s (s.setP v) := Cycles.none rfl
theorem cycles_setPc (s : State) (v : Word) : Cycles 0 s (s.setPc v) := Cycles.none rfl
theorem cycles_setSp (s : State) (v : Byte) : Cycles 0 s (s.setSp v) := Cycles.none rfl
theorem cycles_useUpNmi (s : State) : Cycles 0 s (useUpNmi s) := Cycles.none rfl

theorem cycles_memRead (addr : Word) (s : State) : Cycles 1 s (memRead addr s).2 := by
  simp only [Cycles, memRead_trace, List.length_append, List.length_singleton]

theorem cycles_discardRead (addr : Word) (s : State) : Cycles 1 s (discardRead addr s) := cycles_memRead addr s

theorem cycles_memWrite (addr : Word) (v : Byte) (s : State) : Cycles 1 s (memWrite addr v s) := by
  simp only [Cycles, memWrite_trace, List.length_append, List.length_singleton]

theorem cycles_zeroPagePointer (p : Byte) (s : State) : Cycles 2 s (zeroPagePointer p s).2 :=
  (cycles_memRead _ _).trans (cycles_memRead _ _)

theorem cycles_indexedAddr_load (base : Word) (index : Byte) (s : State) :
    Cycles (pageExtra base index) s (indexedAddr .load base index s).2 := by
  simp only [indexedAddr, pageExtra]
  cases crossesPage base index
  · exact Cycles.none rfl
  · exact cycles_discardRead _ _

theorem cycles_indexedAddr_modify (base : Word) (index : Byte) (s : State) :
    Cycles 1 s (indexedAddr .modify base index s).2 := cycles_discardRead _ _

/-- The cycles that find the operand of a load. -/
def loadCycles (m : MemOperand) (s : State) : Nat :=
  match m with
  | .zp _ => 0
  | .zpX _ => 1
  | .zpY _ => 1
  | .abs _ => 0
  | .absX addr => pageExtra addr s.x
  | .absY addr => pageExtra addr s.y
  | .indX _ => 3
  | .indY b1 => 2 + pageExtra (zeroPagePointer b1 s).1 s.y

/-- The cycles that find the operand of a store or a read-modify-write. -/
def modifyCycles (m : MemOperand) : Nat :=
  match m with
  | .zp _ => 0
  | .zpX _ => 1
  | .zpY _ => 1
  | .abs _ => 0
  | .absX _ => 1
  | .absY _ => 1
  | .indX _ => 3
  | .indY _ => 3

theorem cycles_effectiveAddr_load (m : MemOperand) (s : State) :
    Cycles (loadCycles m s) s (effectiveAddr .load m s).2 := by
  cases m with
  | zp | abs => exact Cycles.none rfl
  | zpX | zpY => exact cycles_discardRead _ _
  | absX | absY => exact cycles_indexedAddr_load _ _ _
  | indX => exact (cycles_discardRead _ _).trans (cycles_zeroPagePointer _ _)
  | indY => exact (cycles_zeroPagePointer _ _).trans (cycles_indexedAddr_load _ _ _)

theorem cycles_effectiveAddr_modify (m : MemOperand) (s : State) :
    Cycles (modifyCycles m) s (effectiveAddr .modify m s).2 := by
  cases m with
  | zp | abs => exact Cycles.none rfl
  | zpX | zpY => exact cycles_discardRead _ _
  | absX | absY => exact cycles_indexedAddr_modify _ _ _
  | indX => exact (cycles_discardRead _ _).trans (cycles_zeroPagePointer _ _)
  | indY => exact (cycles_zeroPagePointer _ _).trans (cycles_indexedAddr_modify _ _ _)

theorem cycles_readOperand (m : MemOperand) (s : State) : Cycles (loadCycles m s + 1) s (readOperand m s).2 :=
  (cycles_effectiveAddr_load _ _).trans (cycles_memRead _ _)

theorem cycles_storeOperand (m : MemOperand) (v : Byte) (s : State) :
    Cycles (modifyCycles m + 1) s (storeOperand m v s) :=
  (cycles_effectiveAddr_modify _ _).trans (cycles_memWrite _ _ _)

theorem cycles_modifyOperand (m : MemOperand) (f : Byte → Flags → Byte × Flags) (s : State) :
    Cycles (modifyCycles m + 3) s (modifyOperand m f s) := by
  have h := cycles_effectiveAddr_modify m s
  simp only [Cycles] at h
  simp only [Cycles, modifyOperand, State.setP_env, memWrite_trace, memRead_trace, List.length_append,
    List.length_singleton, h]
  omega

theorem cycles_branch (cond : Bool) (rel : Byte) (s : State) :
    Cycles (branchExtra cond rel s) s (branch cond rel s) := by
  unfold branch branchExtra
  cases cond with
  | false => exact Cycles.none rfl
  | true =>
    simp only [if_true]
    split
    · exact cycles_discardRead _ _
    · exact (cycles_discardRead _ _).trans (cycles_discardRead _ _)

theorem cycles_push (v : Byte) (s : State) : Cycles 1 s (push v s) := (cycles_memWrite _ _ _).trans (cycles_setSp _ _)

theorem cycles_pull (s : State) : Cycles 1 s (pull s).2 := cycles_memRead (stackAddr (s.sp + 1)) (s.setSp (s.sp + 1))

theorem cycles_peekStack (s : State) : Cycles 1 s (peekStack s) := cycles_discardRead _ _

theorem cycles_loadVector (vec : Word) (s : State) : Cycles 2 s (loadVector vec s) :=
  (cycles_memRead _ _).trans ((cycles_memRead _ _).trans (cycles_setPc _ _))

theorem cycles_stackTrap (b : Bool) (ret : Word) (s : State) : Cycles 3 s (stackTrap b ret s) :=
  (cycles_push _ _).trans ((cycles_push _ _).trans ((cycles_push _ _).trans (cycles_setP _ _)))

theorem cycles_takeTrap (b : Bool) (ret : Word) (s : State) : Cycles 5 s (takeTrap b ret s) := by
  rw [takeTrap_eq]
  split
  · exact (cycles_stackTrap _ _ _).trans ((cycles_useUpNmi _).trans (cycles_loadVector _ _))
  · exact (cycles_stackTrap _ _ _).trans (cycles_loadVector _ _)

end Sys2Proof.Machine
end

