-- ==== Sys2Proof/Tests/Slice0.lean ====
section
/-! SUPPORT. Small tests of the model on fixed values. The expected results are those of spec/: the encodings of
opcode_table.json, the derived vectors of 95_test_vectors.md (named in each docstring), and hand calculation from a
rule where a docstring names the rule alone. -/

namespace Sys2Proof.Tests

open Machine

/-! ## Well-formed bytes -/

/-- No byte at all (30_encoding.md R80). -/
theorem test_no_byte_is_ill_formed : wellFormedBytes [] = false := by decide

/-- An undefined opcode (30_encoding.md R85). -/
theorem test_undefined_opcode_is_ill_formed : wellFormedBytes [0x02] = false := by decide

/-- LDA immediate without its operand (30_encoding.md R81). -/
theorem test_missing_operand_is_ill_formed : wellFormedBytes [0xA9] = false := by decide

/-- LDA immediate with a byte too many (30_encoding.md R81). -/
theorem test_extra_operand_is_ill_formed : wellFormedBytes [0xA9, 0x01, 0x02] = false := by decide

theorem test_whole_instruction_is_well_formed : wellFormedBytes [0xA9, 0x01] = true := by decide

/-- The bytes end before the instruction does. -/
theorem test_decoder_wants_the_operand : decodeBytes [0xAD, 0x34] = .error .tooFewBytes := by decide

/-- $02, $80 and $EB are refused (95_test_vectors.md 2.1). -/
theorem test_undefined_opcodes_are_refused :
    decode 0x02 0 0 = .error (.undefinedOpcode 0x02) ∧ decode 0x80 0x10 0 = .error (.undefinedOpcode 0x80) ∧
      decode 0xEB 0x10 0 = .error (.undefinedOpcode 0xEB) := by decide

/-! ## Every row of the opcode table, its byte 0 written out bit by bit (opcode_table.json, field encoding), followed by
$34 and $12 -/

theorem test_decode_row_0 :
    decode 0b00000000 0x34 0x12 = .ok .brk ∧
    decode 0b00000001 0x34 0x12 = .ok (.oraIndX 0x34) ∧
    decode 0b00000101 0x34 0x12 = .ok (.oraZp 0x34) ∧
    decode 0b00000110 0x34 0x12 = .ok (.aslZp 0x34) ∧
    decode 0b00001000 0x34 0x12 = .ok .php ∧
    decode 0b00001001 0x34 0x12 = .ok (.oraImm 0x34) ∧
    decode 0b00001010 0x34 0x12 = .ok .aslAcc ∧
    decode 0b00001101 0x34 0x12 = .ok (.oraAbs 0x1234) ∧
    decode 0b00001110 0x34 0x12 = .ok (.aslAbs 0x1234) := by
  decide

theorem test_decode_row_1 :
    decode 0b00010000 0x34 0x12 = .ok (.bpl 0x34) ∧
    decode 0b00010001 0x34 0x12 = .ok (.oraIndY 0x34) ∧
    decode 0b00010101 0x34 0x12 = .ok (.oraZpX 0x34) ∧
    decode 0b00010110 0x34 0x12 = .ok (.aslZpX 0x34) ∧
    decode 0b00011000 0x34 0x12 = .ok .clc ∧
    decode 0b00011001 0x34 0x12 = .ok (.oraAbsY 0x1234) ∧
    decode 0b00011101 0x34 0x12 = .ok (.oraAbsX 0x1234) ∧
    decode 0b00011110 0x34 0x12 = .ok (.aslAbsX 0x1234) := by
  decide

theorem test_decode_row_2 :
    decode 0b00100000 0x34 0x12 = .ok (.jsr 0x1234) ∧
    decode 0b00100001 0x34 0x12 = .ok (.andIndX 0x34) ∧
    decode 0b00100100 0x34 0x12 = .ok (.bitZp 0x34) ∧
    decode 0b00100101 0x34 0x12 = .ok (.andZp 0x34) ∧
    decode 0b00100110 0x34 0x12 = .ok (.rolZp 0x34) ∧
    decode 0b00101000 0x34 0x12 = .ok .plp ∧
    decode 0b00101001 0x34 0x12 = .ok (.andImm 0x34) ∧
    decode 0b00101010 0x34 0x12 = .ok .rolAcc ∧
    decode 0b00101100 0x34 0x12 = .ok (.bitAbs 0x1234) ∧
    decode 0b00101101 0x34 0x12 = .ok (.andAbs 0x1234) ∧
    decode 0b00101110 0x34 0x12 = .ok (.rolAbs 0x1234) := by
  decide

theorem test_decode_row_3 :
    decode 0b00110000 0x34 0x12 = .ok (.bmi 0x34) ∧
    decode 0b00110001 0x34 0x12 = .ok (.andIndY 0x34) ∧
    decode 0b00110101 0x34 0x12 = .ok (.andZpX 0x34) ∧
    decode 0b00110110 0x34 0x12 = .ok (.rolZpX 0x34) ∧
    decode 0b00111000 0x34 0x12 = .ok .sec ∧
    decode 0b00111001 0x34 0x12 = .ok (.andAbsY 0x1234) ∧
    decode 0b00111101 0x34 0x12 = .ok (.andAbsX 0x1234) ∧
    decode 0b00111110 0x34 0x12 = .ok (.rolAbsX 0x1234) := by
  decide

theorem test_decode_row_4 :
    decode 0b01000000 0x34 0x12 = .ok .rti ∧
    decode 0b01000001 0x34 0x12 = .ok (.eorIndX 0x34) ∧
    decode 0b01000101 0x34 0x12 = .ok (.eorZp 0x34) ∧
    decode 0b01000110 0x34 0x12 = .ok (.lsrZp 0x34) ∧
    decode 0b01001000 0x34 0x12 = .ok .pha ∧
    decode 0b01001001 0x34 0x12 = .ok (.eorImm 0x34) ∧
    decode 0b01001010 0x34 0x12 = .ok .lsrAcc ∧
    decode 0b01001100 0x34 0x12 = .ok (.jmpAbs 0x1234) ∧
    decode 0b01001101 0x34 0x12 = .ok (.eorAbs 0x1234) ∧
    decode 0b01001110 0x34 0x12 = .ok (.lsrAbs 0x1234) := by
  decide

theorem test_decode_row_5 :
    decode 0b01010000 0x34 0x12 = .ok (.bvc 0x34) ∧
    decode 0b01010001 0x34 0x12 = .ok (.eorIndY 0x34) ∧
    decode 0b01010101 0x34 0x12 = .ok (.eorZpX 0x34) ∧
    decode 0b01010110 0x34 0x12 = .ok (.lsrZpX 0x34) ∧
    decode 0b01011000 0x34 0x12 = .ok .cli ∧
    decode 0b01011001 0x34 0x12 = .ok (.eorAbsY 0x1234) ∧
    decode 0b01011101 0x34 0x12 = .ok (.eorAbsX 0x1234) ∧
    decode 0b01011110 0x34 0x12 = .ok (.lsrAbsX 0x1234) := by
  decide

theorem test_decode_row_6 :
    decode 0b01100000 0x34 0x12 = .ok .rts ∧
    decode 0b01100001 0x34 0x12 = .ok (.adcIndX 0x34) ∧
    decode 0b01100101 0x34 0x12 = .ok (.adcZp 0x34) ∧
    decode 0b01100110 0x34 0x12 = .ok (.rorZp 0x34) ∧
    decode 0b01101000 0x34 0x12 = .ok .pla ∧
    decode 0b01101001 0x34 0x12 = .ok (.adcImm 0x34) ∧
    decode 0b01101010 0x34 0x12 = .ok .rorAcc ∧
    decode 0b01101100 0x34 0x12 = .ok (.jmpInd 0x1234) ∧
    decode 0b01101101 0x34 0x12 = .ok (.adcAbs 0x1234) ∧
    decode 0b01101110 0x34 0x12 = .ok (.rorAbs 0x1234) := by
  decide

theorem test_decode_row_7 :
    decode 0b01110000 0x34 0x12 = .ok (.bvs 0x34) ∧
    decode 0b01110001 0x34 0x12 = .ok (.adcIndY 0x34) ∧
    decode 0b01110101 0x34 0x12 = .ok (.adcZpX 0x34) ∧
    decode 0b01110110 0x34 0x12 = .ok (.rorZpX 0x34) ∧
    decode 0b01111000 0x34 0x12 = .ok .sei ∧
    decode 0b01111001 0x34 0x12 = .ok (.adcAbsY 0x1234) ∧
    decode 0b01111101 0x34 0x12 = .ok (.adcAbsX 0x1234) ∧
    decode 0b01111110 0x34 0x12 = .ok (.rorAbsX 0x1234) := by
  decide

theorem test_decode_row_8 :
    decode 0b10000001 0x34 0x12 = .ok (.staIndX 0x34) ∧
    decode 0b10000100 0x34 0x12 = .ok (.styZp 0x34) ∧
    decode 0b10000101 0x34 0x12 = .ok (.staZp 0x34) ∧
    decode 0b10000110 0x34 0x12 = .ok (.stxZp 0x34) ∧
    decode 0b10001000 0x34 0x12 = .ok .dey ∧
    decode 0b10001010 0x34 0x12 = .ok .txa ∧
    decode 0b10001100 0x34 0x12 = .ok (.styAbs 0x1234) ∧
    decode 0b10001101 0x34 0x12 = .ok (.staAbs 0x1234) ∧
    decode 0b10001110 0x34 0x12 = .ok (.stxAbs 0x1234) := by
  decide

theorem test_decode_row_9 :
    decode 0b10010000 0x34 0x12 = .ok (.bcc 0x34) ∧
    decode 0b10010001 0x34 0x12 = .ok (.staIndY 0x34) ∧
    decode 0b10010100 0x34 0x12 = .ok (.styZpX 0x34) ∧
    decode 0b10010101 0x34 0x12 = .ok (.staZpX 0x34) ∧
    decode 0b10010110 0x34 0x12 = .ok (.stxZpY 0x34) ∧
    decode 0b10011000 0x34 0x12 = .ok .tya ∧
    decode 0b10011001 0x34 0x12 = .ok (.staAbsY 0x1234) ∧
    decode 0b10011010 0x34 0x12 = .ok .txs ∧
    decode 0b10011101 0x34 0x12 = .ok (.staAbsX 0x1234) := by
  decide

theorem test_decode_row_A :
    decode 0b10100000 0x34 0x12 = .ok (.ldyImm 0x34) ∧
    decode 0b10100001 0x34 0x12 = .ok (.ldaIndX 0x34) ∧
    decode 0b10100010 0x34 0x12 = .ok (.ldxImm 0x34) ∧
    decode 0b10100100 0x34 0x12 = .ok (.ldyZp 0x34) ∧
    decode 0b10100101 0x34 0x12 = .ok (.ldaZp 0x34) ∧
    decode 0b10100110 0x34 0x12 = .ok (.ldxZp 0x34) ∧
    decode 0b10101000 0x34 0x12 = .ok .tay ∧
    decode 0b10101001 0x34 0x12 = .ok (.ldaImm 0x34) ∧
    decode 0b10101010 0x34 0x12 = .ok .tax ∧
    decode 0b10101100 0x34 0x12 = .ok (.ldyAbs 0x1234) ∧
    decode 0b10101101 0x34 0x12 = .ok (.ldaAbs 0x1234) ∧
    decode 0b10101110 0x34 0x12 = .ok (.ldxAbs 0x1234) := by
  decide

theorem test_decode_row_B :
    decode 0b10110000 0x34 0x12 = .ok (.bcs 0x34) ∧
    decode 0b10110001 0x34 0x12 = .ok (.ldaIndY 0x34) ∧
    decode 0b10110100 0x34 0x12 = .ok (.ldyZpX 0x34) ∧
    decode 0b10110101 0x34 0x12 = .ok (.ldaZpX 0x34) ∧
    decode 0b10110110 0x34 0x12 = .ok (.ldxZpY 0x34) ∧
    decode 0b10111000 0x34 0x12 = .ok .clv ∧
    decode 0b10111001 0x34 0x12 = .ok (.ldaAbsY 0x1234) ∧
    decode 0b10111010 0x34 0x12 = .ok .tsx ∧
    decode 0b10111100 0x34 0x12 = .ok (.ldyAbsX 0x1234) ∧
    decode 0b10111101 0x34 0x12 = .ok (.ldaAbsX 0x1234) ∧
    decode 0b10111110 0x34 0x12 = .ok (.ldxAbsY 0x1234) := by
  decide

theorem test_decode_row_C :
    decode 0b11000000 0x34 0x12 = .ok (.cpyImm 0x34) ∧
    decode 0b11000001 0x34 0x12 = .ok (.cmpIndX 0x34) ∧
    decode 0b11000100 0x34 0x12 = .ok (.cpyZp 0x34) ∧
    decode 0b11000101 0x34 0x12 = .ok (.cmpZp 0x34) ∧
    decode 0b11000110 0x34 0x12 = .ok (.decZp 0x34) ∧
    decode 0b11001000 0x34 0x12 = .ok .iny ∧
    decode 0b11001001 0x34 0x12 = .ok (.cmpImm 0x34) ∧
    decode 0b11001010 0x34 0x12 = .ok .dex ∧
    decode 0b11001100 0x34 0x12 = .ok (.cpyAbs 0x1234) ∧
    decode 0b11001101 0x34 0x12 = .ok (.cmpAbs 0x1234) ∧
    decode 0b11001110 0x34 0x12 = .ok (.decAbs 0x1234) := by
  decide

theorem test_decode_row_D :
    decode 0b11010000 0x34 0x12 = .ok (.bne 0x34) ∧
    decode 0b11010001 0x34 0x12 = .ok (.cmpIndY 0x34) ∧
    decode 0b11010101 0x34 0x12 = .ok (.cmpZpX 0x34) ∧
    decode 0b11010110 0x34 0x12 = .ok (.decZpX 0x34) ∧
    decode 0b11011000 0x34 0x12 = .ok .cld ∧
    decode 0b11011001 0x34 0x12 = .ok (.cmpAbsY 0x1234) ∧
    decode 0b11011101 0x34 0x12 = .ok (.cmpAbsX 0x1234) ∧
    decode 0b11011110 0x34 0x12 = .ok (.decAbsX 0x1234) := by
  decide

theorem test_decode_row_E :
    decode 0b11100000 0x34 0x12 = .ok (.cpxImm 0x34) ∧
    decode 0b11100001 0x34 0x12 = .ok (.sbcIndX 0x34) ∧
    decode 0b11100100 0x34 0x12 = .ok (.cpxZp 0x34) ∧
    decode 0b11100101 0x34 0x12 = .ok (.sbcZp 0x34) ∧
    decode 0b11100110 0x34 0x12 = .ok (.incZp 0x34) ∧
    decode 0b11101000 0x34 0x12 = .ok .inx ∧
    decode 0b11101001 0x34 0x12 = .ok (.sbcImm 0x34) ∧
    decode 0b11101010 0x34 0x12 = .ok .nop ∧
    decode 0b11101100 0x34 0x12 = .ok (.cpxAbs 0x1234) ∧
    decode 0b11101101 0x34 0x12 = .ok (.sbcAbs 0x1234) ∧
    decode 0b11101110 0x34 0x12 = .ok (.incAbs 0x1234) := by
  decide

theorem test_decode_row_F :
    decode 0b11110000 0x34 0x12 = .ok (.beq 0x34) ∧
    decode 0b11110001 0x34 0x12 = .ok (.sbcIndY 0x34) ∧
    decode 0b11110101 0x34 0x12 = .ok (.sbcZpX 0x34) ∧
    decode 0b11110110 0x34 0x12 = .ok (.incZpX 0x34) ∧
    decode 0b11111000 0x34 0x12 = .ok .sed ∧
    decode 0b11111001 0x34 0x12 = .ok (.sbcAbsY 0x1234) ∧
    decode 0b11111101 0x34 0x12 = .ok (.sbcAbsX 0x1234) ∧
    decode 0b11111110 0x34 0x12 = .ok (.incAbsX 0x1234) := by
  decide

/-- Byte 0 is the lowest eight bits of a table word (opcode_table.json). -/
theorem test_table_words :
    decodeTableWord 8 0xEA = some .nop ∧ decodeTableWord 16 0x10A9 = some (.ldaImm 0x10) ∧
      decodeTableWord 24 0x12346C = some (.jmpInd 0x1234) ∧ decodeTableWord 24 0x30FF20 = some (.jsr 0x30FF) ∧
      decodeTableWord 8 0x02 = none := by decide

theorem test_encode_absolute : encode (.ldaAbs 0x1234) = [0xAD, 0x34, 0x12] := by decide

/-! ## One step -/

/-- Puts bytes into memory from an address on. -/
def fill (m : Memory) : Nat → List Byte → Memory
  | _, [] => m
  | n, b :: rest => fill (m.write n b) (n + 1) rest

/-- A machine with S = $FF, I = 0, every other register and flag 0, an instruction at `pc` and some bytes of memory. -/
def machine (pc : Word) (code : List Byte) (cells : List (Nat × Byte) := []) : State :=
  { State.reset with
    sp := 0xFF, pc := pc, p := { State.reset.p with i := false }
    mem := cells.foldl (fun m c => m.write c.1 c.2) (fill [] pc.toNat code) }

/-- Flags written `n v d i z c`. -/
def flags (n v d i z c : Nat) : Flags :=
  { n := n == 1, v := v == 1, d := d == 1, i := i == 1, z := z == 1, c := c == 1 }

/-- What `f` finds after one step, if the step answers a next state. -/
def after {α : Type} (f : State → α) (s : State) : Option α :=
  match step s with
  | .next t => some (f t)
  | _ => none

/-- A machine whose next boundary shows the sample `x`. -/
def seeing (x : Sample) (s : State) : State := { s with env := { s.env with samples := [x] } }

/-- 95_test_vectors.md A1. -/
theorem test_lda_zero_page_x_wraps :
    after (fun s => (s.a))
      { machine 0x0300 [0xB5, 0xF0] [(0x0010, 0x11), (0x0110, 0x22)] with x := 0x20 } = some 0x11 := by decide

/-- 95_test_vectors.md A2. -/
theorem test_ldx_zero_page_y_wraps :
    after (fun s => (s.x))
      { machine 0x0300 [0xB6, 0xFF] [(0x0000, 0x33), (0x0100, 0x44)] with y := 0x01 } = some 0x33 := by decide

/-- 95_test_vectors.md A3. -/
theorem test_lda_indexed_indirect_wraps :
    after (fun s => (s.a))
      { machine 0x0300 [0xA1, 0xFE] [(0x00FF, 0x34), (0x0000, 0x12), (0x0100, 0x99), (0x1234, 0x5A)] with x := 0x01 } = some 0x5A := by decide

/-- 95_test_vectors.md A4. -/
theorem test_lda_indirect_indexed_wraps :
    after (fun s => (s.a))
      { machine 0x0300 [0xB1, 0xFF] [(0x00FF, 0xF8), (0x0000, 0x20), (0x0100, 0x99), (0x2108, 0x6B)] with y := 0x10 } = some 0x6B := by decide

/-- 95_test_vectors.md A5. -/
theorem test_lda_absolute_x_wraps :
    after (fun s => (s.a))
      { machine 0x0300 [0xBD, 0xFF, 0xFF] [(0x0001, 0x7C)] with x := 0x02 } = some 0x7C := by decide

/-- 95_test_vectors.md A6. -/
theorem test_lda_absolute_y_crosses_a_page :
    after (fun s => (s.a))
      { machine 0x0300 [0xB9, 0xFF, 0x11] [(0x12FE, 0x42)] with y := 0xFF } = some 0x42 := by decide

/-- 95_test_vectors.md A7. -/
theorem test_jmp_indirect_stays_in_the_page :
    after (fun s => (s.pc))
      (machine 0x0400 [0x6C, 0xFF, 0x02] [(0x02FF, 0x34), (0x0200, 0x12), (0x0300, 0x56)]) = some 0x1234 := by decide

/-- 95_test_vectors.md A8. -/
theorem test_jmp_indirect :
    after (fun s => (s.pc))
      (machine 0x0300 [0x6C, 0x10, 0x02] [(0x0210, 0x34), (0x0211, 0x12)]) = some 0x1234 := by decide

/-- 95_test_vectors.md A9. -/
theorem test_bne_wraps_at_the_top :
    after (fun s => (s.pc))
      (machine 0xFFF0 [0xD0, 0x7F]) = some 0x0071 := by decide

/-- 95_test_vectors.md A10. -/
theorem test_beq_wraps_at_the_bottom :
    after (fun s => (s.pc))
      { machine 0x0010 [0xF0, 0x80] with p := flags 0 0 0 0 1 0 } = some 0xFF92 := by decide

/-- 95_test_vectors.md A11. -/
theorem test_sta_through_a_pointer :
    after (fun s => (s.peek 0x4000))
      { machine 0x0300 [0x81, 0x20] [(0x0024, 0x00), (0x0025, 0x40)] with a := 0x77, x := 0x04 } = some 0x77 := by decide

/-- 95_test_vectors.md L1. -/
theorem test_lda_immediate :
    after (fun s => (s.a, s.p))
      { machine 0x0300 [0xA9, 0x00] with a := 0x55, p := flags 1 0 0 0 0 0 } = some (0x00, flags 0 0 0 0 1 0) := by decide

/-- 95_test_vectors.md L3. -/
theorem test_ldx_zero_page :
    after (fun s => (s.x, s.p))
      { machine 0x0300 [0xA6, 0x10] [(0x0010, 0x7F)] with p := flags 1 0 0 0 1 0 } = some (0x7F, flags 0 0 0 0 0 0) := by decide

/-- 95_test_vectors.md L4. -/
theorem test_ldy_absolute_x :
    after (fun s => (s.y, s.p))
      { machine 0x0300 [0xBC, 0x34, 0x12] [(0x1237, 0xFF)] with x := 0x03 } = some (0xFF, flags 1 0 0 0 0 0) := by decide

/-- 95_test_vectors.md L5. -/
theorem test_sta_writes_no_flag :
    after (fun s => (s.peek 0x0010, s.p))
      { machine 0x0300 [0x85, 0x10] [(0x0010, 0x66)] with p := flags 1 0 0 0 0 0 } = some (0x00, flags 1 0 0 0 0 0) := by decide

/-- 95_test_vectors.md L6. -/
theorem test_stx_zero_page_y :
    after (fun s => (s.peek 0x0015, s.p))
      { machine 0x0300 [0x96, 0x10] with x := 0x80, y := 0x05 } = some (0x80, flags 0 0 0 0 0 0) := by decide

/-- 95_test_vectors.md L7. -/
theorem test_sty_zero_page_x_wraps :
    after (fun s => (s.peek 0x0001))
      { machine 0x0300 [0x94, 0xFF] [(0x0001, 0x66)] with x := 0x02 } = some 0x00 := by decide

/-- 95_test_vectors.md L8. -/
theorem test_tax :
    after (fun s => (s.x, s.p))
      { machine 0x0300 [0xAA] with a := 0x80 } = some (0x80, flags 1 0 0 0 0 0) := by decide

/-- 95_test_vectors.md L9. -/
theorem test_tya :
    after (fun s => (s.a, s.p))
      { machine 0x0300 [0x98] with a := 0x12 } = some (0x00, flags 0 0 0 0 1 0) := by decide

/-- 95_test_vectors.md L10. -/
theorem test_tsx :
    after (fun s => (s.x, s.p))
      (machine 0x0300 [0xBA]) = some (0xFF, flags 1 0 0 0 0 0) := by decide

/-- 95_test_vectors.md L11. -/
theorem test_txs_writes_no_flag :
    after (fun s => (s.sp, s.p))
      { machine 0x0300 [0x9A] with sp := 0x80, p := flags 1 0 0 0 0 0 } = some (0x00, flags 1 0 0 0 0 0) := by decide

/-- 95_test_vectors.md L12. -/
theorem test_tay :
    after (fun s => (s.y, s.p))
      { machine 0x0300 [0xA8] with a := 0x01, y := 0x7F, p := flags 1 0 0 0 1 0 } = some (0x01, flags 0 0 0 0 0 0) := by decide

/-- 95_test_vectors.md L13. -/
theorem test_txa :
    after (fun s => (s.a, s.p))
      { machine 0x0300 [0x8A] with a := 0x44 } = some (0x00, flags 0 0 0 0 1 0) := by decide

/-- 95_test_vectors.md 2.4. -/
theorem test_adc_overflow :
    after (fun s => (s.a, s.p))
      { machine 0x0300 [0x69, 0x50] with a := 0x50 } = some (0xA0, flags 1 1 0 0 0 0) := by decide

/-- 95_test_vectors.md 2.4. -/
theorem test_adc_carry_in_and_out :
    after (fun s => (s.a, s.p))
      { machine 0x0300 [0x69, 0x00] with a := 0xFF, p := flags 0 0 0 0 0 1 } = some (0x00, flags 0 0 0 0 1 1) := by decide

/-- 95_test_vectors.md 2.4. -/
theorem test_sbc_borrow_and_overflow :
    after (fun s => (s.a, s.p))
      { machine 0x0300 [0xE9, 0xB0] with a := 0x50, p := flags 0 0 0 0 0 1 } = some (0xA0, flags 1 1 0 0 0 0) := by decide

/-- 95_test_vectors.md 2.4. -/
theorem test_sbc_with_borrow_in :
    after (fun s => (s.a, s.p))
      { machine 0x0300 [0xE9, 0x41] with a := 0x42 } = some (0x00, flags 0 0 0 0 1 1) := by decide

/-- 95_test_vectors.md 2.4, decimal mode; N, V, Z are free. -/
theorem test_adc_decimal :
    after (fun s => (s.a, s.p.c, s.p.d))
      { machine 0x0300 [0x69, 0x46] with p := flags 0 0 1 0 0 1, a := 0x58 } = some (0x05, true, true) := by decide

/-- 95_test_vectors.md 2.4, decimal mode; N, V, Z are free. -/
theorem test_sbc_decimal :
    after (fun s => (s.a, s.p.c, s.p.d))
      { machine 0x0300 [0xE9, 0x34] with p := flags 0 0 1 0 0 1, a := 0x21 } = some (0x87, false, true) := by decide

/-- 95_test_vectors.md 2.4. -/
theorem test_cmp_is_unsigned :
    after (fun s => (s.a, s.p))
      { machine 0x0300 [0xC9, 0x7F] with a := 0x80, p := flags 0 1 0 0 0 0 } = some (0x80, flags 0 1 0 0 0 1) := by decide

/-- 95_test_vectors.md 2.4. -/
theorem test_cpx_equal :
    after (fun s => (s.x, s.p))
      { machine 0x0300 [0xE0, 0x40] with x := 0x40 } = some (0x40, flags 0 0 0 0 1 1) := by decide

/-- 95_test_vectors.md 2.4. -/
theorem test_cpy_less :
    after (fun s => (s.y, s.p))
      { machine 0x0300 [0xC0, 0x50] with y := 0x30, p := flags 0 0 0 0 0 1 } = some (0x30, flags 1 0 0 0 0 0) := by decide

/-- 95_test_vectors.md 2.4. -/
theorem test_cmp_ignores_decimal :
    after (fun s => (s.p))
      { machine 0x0300 [0xC9, 0x09] with a := 0x10, p := flags 0 0 1 0 0 0 } = some (flags 0 0 1 0 0 1) := by decide

/-- 95_test_vectors.md 2.4. -/
theorem test_inx_keeps_c_and_v :
    after (fun s => (s.x, s.p))
      { machine 0x0300 [0xE8] with x := 0xFF, p := flags 0 1 0 0 0 1 } = some (0x00, flags 0 1 0 0 1 1) := by decide

/-- 95_test_vectors.md 2.4. -/
theorem test_dex_wraps :
    after (fun s => (s.x, s.p))
      (machine 0x0300 [0xCA]) = some (0xFF, flags 1 0 0 0 0 0) := by decide

/-- 95_test_vectors.md 2.4. -/
theorem test_iny :
    after (fun s => (s.y, s.p))
      { machine 0x0300 [0xC8] with y := 0x7F } = some (0x80, flags 1 0 0 0 0 0) := by decide

/-- 95_test_vectors.md 2.4. -/
theorem test_dey :
    after (fun s => (s.y, s.p))
      { machine 0x0300 [0x88] with y := 0x01 } = some (0x00, flags 0 0 0 0 1 0) := by decide

/-- 95_test_vectors.md 2.4. -/
theorem test_inc_wraps :
    after (fun s => (s.peek 0x0010, s.p))
      (machine 0x0300 [0xE6, 0x10] [(0x0010, 0xFF)]) = some (0x00, flags 0 0 0 0 1 0) := by decide

/-- 95_test_vectors.md 2.4. -/
theorem test_dec_wraps :
    after (fun s => (s.peek 0x0010, s.p))
      (machine 0x0300 [0xC6, 0x10]) = some (0xFF, flags 1 0 0 0 0 0) := by decide

/-- 95_test_vectors.md 2.4. -/
theorem test_inc_absolute_x :
    after (fun s => (s.peek 0x0300, s.p))
      { machine 0x0400 [0xFE, 0xFF, 0x02] [(0x0300, 0xFE)] with x := 0x01 } = some (0xFF, flags 1 0 0 0 0 0) := by decide

/-- 95_test_vectors.md 2.5. -/
theorem test_and_immediate :
    after (fun s => (s.a, s.p))
      { machine 0x0300 [0x29, 0x3C] with a := 0xF0 } = some (0x30, flags 0 0 0 0 0 0) := by decide

/-- 95_test_vectors.md 2.5. -/
theorem test_ora_immediate :
    after (fun s => (s.a, s.p))
      { machine 0x0300 [0x09, 0x80] with a := 0x0F } = some (0x8F, flags 1 0 0 0 0 0) := by decide

/-- 95_test_vectors.md 2.5. -/
theorem test_eor_immediate :
    after (fun s => (s.a, s.p))
      { machine 0x0300 [0x49, 0xAA] with a := 0xAA } = some (0x00, flags 0 0 0 0 1 0) := by decide

/-- 95_test_vectors.md 2.5. -/
theorem test_bit_zero_page :
    after (fun s => (s.a, s.p))
      { machine 0x0300 [0x24, 0x20] [(0x0020, 0xC0)] with a := 0x01 } = some (0x01, flags 1 1 0 0 1 0) := by decide

/-- 95_test_vectors.md 2.5. -/
theorem test_bit_absolute_clears :
    after (fun s => (s.p))
      { machine 0x0300 [0x2C, 0x00, 0x40] [(0x4000, 0x3F)] with a := 0xFF, p := flags 1 1 0 0 0 0 } = some (flags 0 0 0 0 0 0) := by decide

/-- 95_test_vectors.md 2.5. -/
theorem test_asl_drops_the_old_carry :
    after (fun s => (s.a, s.p))
      { machine 0x0300 [0x0A] with a := 0x80, p := flags 0 0 0 0 0 1 } = some (0x00, flags 0 0 0 0 1 1) := by decide

/-- 95_test_vectors.md 2.5. -/
theorem test_lsr_accumulator :
    after (fun s => (s.a, s.p))
      { machine 0x0300 [0x4A] with a := 0x03 } = some (0x01, flags 0 0 0 0 0 1) := by decide

/-- 95_test_vectors.md 2.5. -/
theorem test_rol_accumulator :
    after (fun s => (s.a, s.p))
      { machine 0x0300 [0x2A] with a := 0x40, p := flags 0 0 0 0 0 1 } = some (0x81, flags 1 0 0 0 0 0) := by decide

/-- 95_test_vectors.md 2.5. -/
theorem test_ror_accumulator :
    after (fun s => (s.a, s.p))
      { machine 0x0300 [0x6A] with a := 0x01, p := flags 0 0 0 0 0 1 } = some (0x80, flags 1 0 0 0 0 1) := by decide

/-- 95_test_vectors.md 2.5. -/
theorem test_lsr_zero_page :
    after (fun s => (s.peek 0x0021, s.p, s.a))
      { machine 0x0300 [0x46, 0x21] [(0x0021, 0x7B)] with a := 0x09 } = some (0x3D, flags 0 0 0 0 0 1, 0x09) := by decide

/-- 95_test_vectors.md 2.5. -/
theorem test_ror_zero_page :
    after (fun s => (s.peek 0x0022, s.p))
      { machine 0x0300 [0x66, 0x22] [(0x0022, 0x5A)] with p := flags 0 0 0 0 0 1 } = some (0xAD, flags 1 0 0 0 0 0) := by decide

/-- 95_test_vectors.md 2.6. -/
theorem test_bcc_taken :
    after (fun s => (s.pc))
      (machine 0x0300 [0x90, 0x04]) = some 0x0306 := by decide

/-- 95_test_vectors.md 2.6. -/
theorem test_bcc_not_taken :
    after (fun s => (s.pc))
      { machine 0x0300 [0x90, 0x04] with p := flags 0 0 0 0 0 1 } = some 0x0302 := by decide

/-- 95_test_vectors.md 2.6. -/
theorem test_bcs_to_itself :
    after (fun s => (s.pc))
      { machine 0x0300 [0xB0, 0xFE] with p := flags 0 0 0 0 0 1 } = some 0x0300 := by decide

/-- 95_test_vectors.md 2.6. -/
theorem test_bmi :
    after (fun s => (s.pc))
      { machine 0x0500 [0x30, 0x02] with p := flags 1 0 0 0 0 0 } = some 0x0504 := by decide

/-- 95_test_vectors.md 2.6. -/
theorem test_bpl :
    after (fun s => (s.pc))
      (machine 0x0600 [0x10, 0x80]) = some 0x0582 := by decide

/-- 95_test_vectors.md 2.6. -/
theorem test_bvc :
    after (fun s => (s.pc))
      (machine 0x0700 [0x50, 0x7F]) = some 0x0781 := by decide

/-- 95_test_vectors.md 2.6. -/
theorem test_bvs :
    after (fun s => (s.pc))
      { machine 0x0800 [0x70, 0x00] with p := flags 0 1 0 0 0 0 } = some 0x0802 := by decide

/-- 95_test_vectors.md 2.6. -/
theorem test_jmp_absolute :
    after (fun s => (s.pc, s.sp))
      (machine 0x0300 [0x4C, 0x00, 0xC0]) = some (0xC000, 0xFF) := by decide

/-- 95_test_vectors.md 2.6. -/
theorem test_jsr_wraps_the_stack :
    after (fun s => (s.peek 0x0100, s.peek 0x01FF, s.sp, s.pc))
      { machine 0x0200 [0x20, 0x00, 0x30] with sp := 0x00 } = some (0x02, 0x02, 0xFE, 0x3000) := by decide

/-- 95_test_vectors.md 2.6. -/
theorem test_jsr_wraps_the_address_space :
    after (fun s => (s.peek 0x01FF, s.peek 0x01FE, s.pc))
      { State.reset with sp := 0xFF, pc := 0xFFFD, mem := fill [] 0xFFFD [0x20, 0x34, 0x12] } = some (0xFF, 0xFF, 0x1234) := by decide

/-- 95_test_vectors.md 2.6. -/
theorem test_rts :
    after (fun s => (s.pc, s.sp))
      { machine 0x0300 [0x60] [(0x01FE, 0x02), (0x01FF, 0x02)] with sp := 0xFD } = some (0x0203, 0xFF) := by decide

/-- 95_test_vectors.md 2.6. -/
theorem test_rts_wraps :
    after (fun s => (s.pc, s.sp))
      (machine 0x0300 [0x60] [(0x0100, 0xFF), (0x0101, 0xFF)]) = some (0x0000, 0x01) := by decide

/-- 95_test_vectors.md 2.7. -/
theorem test_pha_wraps :
    after (fun s => (s.peek 0x0100, s.sp))
      { machine 0x0300 [0x48] with a := 0x42, sp := 0x00 } = some (0x42, 0xFF) := by decide

/-- 95_test_vectors.md 2.7. -/
theorem test_pla_wraps :
    after (fun s => (s.a, s.p, s.sp))
      (machine 0x0300 [0x68] [(0x0100, 0x80)]) = some (0x80, flags 1 0 0 0 0 0, 0x00) := by decide

/-- 95_test_vectors.md 2.7. -/
theorem test_php :
    after (fun s => (s.peek 0x01FF, s.sp))
      { machine 0x0300 [0x08] with p := flags 1 0 0 1 1 1 } = some (0xB7, 0xFE) := by decide

/-- 95_test_vectors.md 2.7. -/
theorem test_plp :
    after (fun s => (s.p, s.sp))
      { machine 0x0300 [0x28] [(0x01FF, 0xC3)] with sp := 0xFE } = some (flags 1 1 0 0 1 1, 0xFF) := by decide

/-- 95_test_vectors.md 2.7. -/
theorem test_clc :
    after (fun s => (s.p))
      { machine 0x0300 [0x18] with p := flags 0 0 0 0 0 1 } = some (flags 0 0 0 0 0 0) := by decide

/-- 95_test_vectors.md 2.7. -/
theorem test_sec :
    after (fun s => (s.p))
      (machine 0x0300 [0x38]) = some (flags 0 0 0 0 0 1) := by decide

/-- 95_test_vectors.md 2.7. -/
theorem test_cli :
    after (fun s => (s.p))
      { machine 0x0300 [0x58] with p := flags 0 0 0 1 0 0 } = some (flags 0 0 0 0 0 0) := by decide

/-- 95_test_vectors.md 2.7. -/
theorem test_sei :
    after (fun s => (s.p))
      (machine 0x0300 [0x78]) = some (flags 0 0 0 1 0 0) := by decide

/-- 95_test_vectors.md 2.7. -/
theorem test_cld :
    after (fun s => (s.p))
      { machine 0x0300 [0xD8] with p := flags 0 0 1 0 0 0 } = some (flags 0 0 0 0 0 0) := by decide

/-- 95_test_vectors.md 2.7. -/
theorem test_sed :
    after (fun s => (s.p))
      (machine 0x0300 [0xF8]) = some (flags 0 0 1 0 0 0) := by decide

/-- 95_test_vectors.md 2.7. -/
theorem test_clv :
    after (fun s => (s.p))
      { machine 0x0300 [0xB8] with p := flags 0 1 0 0 0 0 } = some (flags 0 0 0 0 0 0) := by decide

/-- 95_test_vectors.md 2.7. -/
theorem test_nop :
    after (fun s => (s.pc, s.a, s.p))
      { machine 0x0300 [0xEA] with a := 0x01, p := flags 1 1 0 0 0 0 } = some (0x0301, 0x01, flags 1 1 0 0 0 0) := by decide

/-- 95_test_vectors.md 2.7. -/
theorem test_brk :
    after (fun s => (s.peek 0x01FF, s.peek 0x01FE, s.peek 0x01FD, s.sp, s.p, s.pc))
      { machine 0x0300 [0x00] [(0xFFFF, 0x80)] with p := flags 0 0 0 0 0 1 } = some (0x03, 0x02, 0x31, 0xFC, flags 0 0 0 1 0 1, 0x8000) := by decide

/-- 95_test_vectors.md 2.7. -/
theorem test_rti :
    after (fun s => (s.p, s.pc, s.sp))
      { machine 0x0300 [0x40] [(0x01FD, 0xFF), (0x01FE, 0x00), (0x01FF, 0x10)] with sp := 0xFC } = some (flags 1 1 1 1 1 1, 0x1000, 0xFF) := by decide

/-! ## The platform -/

/-- The same machine built around another member. -/
def onMember (m : Member) (s : State) : State := { s with cfg := { s.cfg with member := m } }

/-- The same machine with one region in its map. -/
def mapped (base size : Nat) (k : RegionKind) (s : State) : State :=
  { s with cfg := { s.cfg with map := [{ base := base, size := size, kind := k }] } }

/-- 95_test_vectors.md A12: on 13 address pins $2000 is bus address 0. -/
theorem test_sta_wraps_at_the_pins :
    after (fun s => s.mem.read 0) (onMember .mcs6504 { machine 0x0300 [0x8D, 0x00, 0x20] with a := 0x5A }) =
      some 0x5A := by decide

/-- 95_test_vectors.md A13: on 12 address pins the reset vector is at bus addresses $0FFC and $0FFD. -/
theorem test_reset_vector_at_the_pins :
    after (fun s => (s.pc, s.p.i, s.inReset))
      (onMember .mcs6503 { machine 0 [] [(0x0FFC, 0x00), (0x0FFD, 0x08)] with inReset := true }) =
      some (0x0800, true, false) := by decide

/-- 95_test_vectors.md 2.5, last row: a device sees the read and both writes of ASL. -/
theorem test_asl_on_a_device :
    after (fun s => s.env.trace.drop 2)
      { mapped 0x0022 1 .device (machine 0x0300 [0x06, 0x22]) with env := { Env.idle with deviceIn := [0x5A] } } =
      some [{ addr := 0x22, write := false, data := 0x5A, sync := false },
        { addr := 0x22, write := true, data := 0x5A, sync := false },
        { addr := 0x22, write := true, data := 0xB4, sync := false }] := by decide

/-- A write to ROM changes nothing (20_memory.md R57). -/
theorem test_rom_is_not_written :
    after (fun s => s.peek 0x4000) (mapped 0x4000 1 .rom { machine 0x0300 [0x8D, 0x00, 0x40] with a := 0x77 }) =
      some 0x00 := by decide

/-- A DMA write in cycle 3 of LDA zero page, the operand's read cycle, is seen by it (20_memory.md R63). -/
theorem test_dma_write_in_the_read_cycle :
    after (fun s => (s.a, s.env.dma))
      { machine 0x0300 [0xA5, 0x10] with env := { Env.idle with dma := [[], [], [{ addr := 0x0010, data := 0x99 }]] } } =
      some (0x99, []) := by decide

/-- The MCS6503 has no RDY, so nothing can hold it (00_scope.md R5). -/
theorem test_no_dma_without_rdy :
    after (fun s => s.a) (onMember .mcs6503
      { machine 0x0300 [0xA5, 0x10] with env := { Env.idle with dma := [[{ addr := 0x0010, data := 0x99 }]] } }) =
      some 0x00 := by decide

/-- SYNC is high in the opcode fetch alone (10_state.md R40), and cycle 2 reads the byte after NOP (20_memory.md R58). -/
theorem test_nop_makes_two_read_cycles :
    after (fun s => s.env.trace) (machine 0x0300 [0xEA, 0x55]) =
      some [{ addr := 0x0300, write := false, data := 0xEA, sync := true },
        { addr := 0x0301, write := false, data := 0x55, sync := false }] := by decide

/-- A page crossing costs LDA absolute,Y its fifth cycle (40_addressing_modes.md R108). -/
theorem test_cycles_of_a_page_crossing :
    after (fun s => s.env.trace.length) { machine 0x0300 [0xB9, 0xFF, 0x11] with y := 0xFF } = some 5 := by decide

/-! ## Interrupts and reset (95_test_vectors.md 2.8) -/

/-- The state of row I1. -/
def atI1 : State :=
  { machine 0x1234 [0xEA] [(0xFFFA, 0x00), (0xFFFB, 0x80), (0xFFFE, 0x00), (0xFFFF, 0x90)] with
    p := flags 1 0 1 0 0 1 }

def irqLow : Sample := { Sample.idle with irqLow := true }

def nmiEdge : Sample := { Sample.idle with nmiEdge := true }

/-- I1. -/
theorem test_irq :
    after (fun s => (s.peek 0x01FF, s.peek 0x01FE, s.peek 0x01FD, s.sp, s.p, s.pc)) (seeing irqLow atI1) =
      some (0x12, 0x34, 0xA9, 0xFC, flags 1 0 1 1 0 1, 0x9000) := by decide

/-- I2. -/
theorem test_irq_is_masked :
    after (fun s => (s.pc, s.sp)) (seeing irqLow { atI1 with p := flags 1 0 1 1 0 1 }) = some (0x1235, 0xFF) := by
  decide

/-- I3. -/
theorem test_nmi_ignores_the_mask :
    after (fun s => (s.peek 0x01FD, s.p.i, s.pc, s.nmiPending)) (seeing nmiEdge { atI1 with p := flags 1 0 1 1 0 1 }) =
      some (0xAD, true, 0x8000, false) := by decide

/-- I4. -/
theorem test_nmi_stack_wraps :
    after (fun s => (s.peek 0x0101, s.peek 0x0100, s.peek 0x01FF, s.sp)) (seeing nmiEdge { atI1 with sp := 0x01 }) =
      some (0x12, 0x34, 0xA9, 0xFE) := by decide

/-- I5. -/
theorem test_nmi_before_irq :
    after (fun s => s.pc) (seeing { irqLow with nmiEdge := true } atI1) = some 0x8000 := by decide

/-- I6. -/
theorem test_rdy_low_holds_interrupts :
    after (fun s => (s.pc, s.sp, s.nmiPending)) (seeing { irqLow with rdyLow := true, nmiEdge := true } atI1) =
      some (0x1234, 0xFF, true) := by decide

/-- A member without RDY takes the interrupt (60_exceptions.md R228). -/
theorem test_no_rdy_pin :
    after (fun s => s.sp) (onMember .mcs6503 (seeing { irqLow with rdyLow := true } atI1)) = some 0xFC := by decide

/-- I7, the run in which the boundary after CLI sees the new I. -/
theorem test_irq_right_after_cli :
    after (fun s => s.sp) (seeing irqLow { atI1 with oldI := some true }) = some 0xFC := by decide

/-- I7, the other run: the boundary after CLI still sees the old I. -/
theorem test_irq_one_later_after_cli :
    after (fun s => (s.pc, s.oldI)) (seeing { irqLow with useOldMask := true } { atI1 with oldI := some true }) =
      some (0x1235, none) := by decide

/-- I8: the boundary after SEI may still see the old I. -/
theorem test_irq_right_after_sei :
    after (fun s => (s.sp, s.peek 0x01FD))
      (seeing { irqLow with useOldMask := true } { atI1 with p := flags 1 0 1 1 0 1, oldI := some false }) =
      some (0xFC, 0xAD) := by decide

/-- I9. -/
theorem test_reset_sequence :
    after (fun s => (s.pc, s.p.i, s.nmiPending, s.inReset, s.mem.length))
      { machine 0x1234 [0xEA] [(0xFFFD, 0xC0)] with inReset := true } =
      some (0xC000, true, false, false, 2) := by decide

/-- RES low holds the processor and drops a pending NMI (10_state.md R34, R38). -/
theorem test_reset_line_low :
    after (fun s => (s.pc, s.inReset, s.nmiPending, s.env.trace.length))
      (seeing { Sample.idle with resLow := true } { atI1 with nmiPending := true }) = some (0x1234, true, false, 0) := by
  decide

/-- I11, the outcome with the NMI vector: bit 4 of the stacked P is set and no NMI is left. -/
theorem test_nmi_takes_over_brk :
    after (fun s => (s.pc, s.peek 0x01FD, s.nmiPending))
      (seeing { Sample.idle with nmiDuring := true }
        (machine 0x0300 [0x00] [(0xFFFA, 0x00), (0xFFFB, 0x80), (0xFFFF, 0x90)])) = some (0x8000, 0x30, false) := by
  decide

/-- I11 on a member without the pin (00_scope.md R5). -/
theorem test_brk_without_an_nmi_pin :
    after (fun s => s.pc)
      (onMember .mcs6504 (seeing { Sample.idle with nmiDuring := true }
        (machine 0x0300 [0x00] [(0x1FFF, 0x90), (0x1FFB, 0x80)]))) = some 0x9000 := by decide

/-- An NMI edge during any other instruction is latched for the next boundary (10_state.md R34). -/
theorem test_nmi_edge_during_an_instruction :
    after (fun s => (s.pc, s.nmiPending)) (seeing { Sample.idle with nmiDuring := true } (machine 0x0300 [0xEA])) =
      some (0x0301, true) := by decide

/-- I12. -/
theorem test_so_edge_sets_v :
    after (fun s => (s.p.v, s.pc)) (seeing { Sample.idle with soEdge := true } (machine 0x0300 [0x50, 0xFE])) =
      some (true, 0x0302) := by decide

/-- An S.O. edge during CLV, after V is cleared: V is 1 right after it (10_state.md R36, 92_eei_decisions.md D14). -/
theorem test_so_edge_during_clv :
    after (fun s => (s.p.v, s.pc)) (seeing { Sample.idle with soDuring := true } (machine 0x0300 [0xB8])) =
      some (true, 0x0301) := by decide

/-- The MCS6505 has no S.O. pin (00_scope.md R5). -/
theorem test_no_so_pin :
    after (fun s => s.p.v) (onMember .mcs6505
      (seeing { Sample.idle with soEdge := true, soDuring := true } (machine 0x0300 [0xEA]))) = some false := by decide

/-- INC on a device, RES going low in its third cycle, the read: the device sees no write, whether or not the processor
goes on (20_memory.md R67, 60_exceptions.md R238), and the reset is under way. -/
theorem test_res_after_the_read_of_inc :
    after (fun s => (s.env.trace.drop 2, s.inReset, s.env.deviceIn))
      { mapped 0x0022 1 .device (machine 0x0300 [0xE6, 0x22]) with
        env := { Env.idle with
          deviceIn := [0x5A, 0xA5]
          samples := [{ Sample.idle with resDuring := some { after := 2, goesOn := 2 } }] } } =
      some ([{ addr := 0x22, write := false, data := 0x5A, sync := false }], true, [0xA5]) := by decide

/-- The same with RES going low one cycle later, after the first of the two writes. -/
theorem test_res_after_the_first_write_of_inc :
    after (fun s => s.env.trace.drop 3)
      { mapped 0x0022 1 .device (machine 0x0300 [0xE6, 0x22]) with
        env := { Env.idle with
          deviceIn := [0x5A]
          samples := [{ Sample.idle with resDuring := some { after := 3, goesOn := 2 } }] } } =
      some [{ addr := 0x22, write := true, data := 0x5A, sync := false }] := by decide

/-- 93_implementation_defined.md U6: JSR in page one, RES going low before its pushes. Its last read, of the byte a push was
to write, returns a free value, neither the old byte nor the pushed one. -/
theorem test_res_before_the_pushes_of_jsr_in_page_one :
    after (fun s => s.env.trace.drop 3)
      { machine 0x01FD [0x20, 0x00, 0x30] with
        sp := 0xFF
        env := { Env.idle with samples := [{ Sample.idle with resDuring := some { after := 2, goesOn := 3 } }] } } =
      some [{ addr := 0x01FF, write := false, data := Config.freeByte 0, sync := false }] := by rfl

/-- With S elsewhere the pushes do not meet the read, which returns what memory holds. -/
theorem test_res_before_the_pushes_of_jsr :
    after (fun s => s.env.trace.drop 3)
      { machine 0x01FD [0x20, 0x00, 0x30] with
        sp := 0x80
        env := { Env.idle with samples := [{ Sample.idle with resDuring := some { after := 2, goesOn := 3 } }] } } =
      some [{ addr := 0x01FF, write := false, data := 0x30, sync := false }] := by rfl

/-- A read cycle that RES cuts off takes nothing from the DMA schedule, and one that still happens does. -/
theorem test_res_and_the_dma_schedule :
    after (fun s => (s.env.dma.length, s.peek 0x0010))
      { machine 0x0300 [0xA5, 0x10] with
        env := { Env.idle with
          dma := [[{ addr := 0x0010, data := 0x77 }], [], [{ addr := 0x0010, data := 0x99 }]]
          samples := [{ Sample.idle with resDuring := some { after := 1, goesOn := 0 } }] } } =
      some (1, 0x77) := by decide

/-- 30_encoding.md R85. -/
theorem test_undefined_opcode_stops_the_step :
    step (machine 0x0300 [0x02]) = .refused (.undefinedOpcode 0x02) := rfl

/-- The first step from the reset state placed by withFetchWord runs the instruction. -/
theorem test_with_fetch_word :
    after (fun s => (s.a, s.pc)) (State.reset.withFetchWord 16 0x7FA9) = some (0x7F, 0x0002) := by decide

/-! ## Witnesses: a state and operands that meet the hypotheses of each statement that has any -/

/-- A machine on RAM throughout, with a few values that show in results. -/
def plain : State := { machine 0x0302 [] [(0x0010, 0x99), (0xFFFA, 0x12), (0xFFFE, 0x34)] with a := 0x99, x := 0xFF, y := 0xFF }

/-- The same with ROM in the upper half. -/
def withRom : State := mapped 0x8000 0x8000 .rom plain

/-- The same in decimal mode with C set, the largest sum. -/
def decimal : State := { plain with p := flags 0 0 1 0 0 1 }

theorem plain_noDma : plain.NoDma := rfl
theorem plain_isRam (addr : Word) : plain.IsRam addr := rfl
theorem plain_isMemory (addr : Word) : plain.IsMemory addr := .inl rfl
theorem withRom_upper_is_no_ram : withRom.NoDma ∧ ¬ withRom.IsRam 0xFFFF ∧ withRom.IsMemory 0xFFFF :=
  ⟨rfl, (by decide : ¬ withRom.kindOf 0xFFFF = .ram), .inr (by decide : withRom.kindOf 0xFFFF = .rom)⟩

theorem witness_DecodedBytesAreTheWordsOfTheInstruction :
    decodeBytes [0xA9, 0x10, 0xEA] = .ok (.ldaImm 0x10, [0xEA]) := rfl

/-- JMP, whose last byte is the last of the address space, and a NOP right below a device. -/
theorem witness_StepRunsTheDecodedInstruction :
    (let s : State := { plain with pc := 0xFFFD, mem := fill [] 0xFFFD [0x4C, 0x34, 0x12] }
    s.Undisturbed ∧ s.NoDma ∧ s.IsMemory s.pc ∧ s.IsMemory (s.pc + 1) ∧
      (fetchCycles (.jmpAbs 0x1234) = 3 → s.IsMemory (s.pc + 2)) ∧
      decode (s.peek s.pc) (s.peek (s.pc + 1)) (s.peek (s.pc + 2)) = .ok (.jmpAbs 0x1234)) ∧
    let s : State := mapped 0x0302 1 .device (machine 0x0300 [0xEA])
    s.Undisturbed ∧ s.NoDma ∧ s.IsMemory s.pc ∧ s.IsMemory (s.pc + 1) ∧
      (fetchCycles .nop = 3 → s.IsMemory (s.pc + 2)) ∧
      decode (s.peek s.pc) (s.peek (s.pc + 1)) (s.peek (s.pc + 2)) = .ok .nop :=
  ⟨⟨⟨rfl, rfl, rfl⟩, rfl, .inl rfl, .inl rfl, fun _ => .inl rfl, rfl⟩, ⟨rfl, rfl, rfl⟩, rfl, .inl rfl, .inl rfl,
    fun h => absurd h (by decide), rfl⟩

theorem witness_StepRefusesAnUndefinedOpcode :
    let s := machine 0x0300 [0xFF]
    recognise s.sampled = .instruction ∧ (busRead true s.sampled.pc s.sampled).1 ∈ undefinedOpcodes := by decide

/-- On a member with 12 address pins and the NMI pin, with every edge that can come in a step. -/
theorem witness_StepKeepsTheInvariant :
    let s := onMember .mcs6503 (seeing { Sample.idle with nmiEdge := true, nmiDuring := true, resDuring := some { after := 2, goesOn := 1 } }
      { machine 0x0300 [0x8D, 0xFF, 0xFF] [(0x0FFF, 0x01)] with nmiPending := true })
    s.Inv ∧ ∃ t, step s = .next t :=
  ⟨⟨rfl, rfl, fun _ => rfl⟩, _, rfl⟩

theorem witness_NoStepChangesThePlatform : ∃ t, step (machine 0x0300 [0xEA]) = .next t := ⟨_, rfl⟩

/-- The three clauses, the first two at the last address. -/
theorem witness_RamReturnsTheLastByteWritten :
    (plain.NoDma ∧ plain.IsRam 0xFFFF) ∧
      busAddr plain.cfg.member 0x0000 ≠ busAddr plain.cfg.member 0xFFFF ∧ ¬ withRom.IsRam 0xFFFF :=
  ⟨⟨rfl, rfl⟩, by decide, withRom_upper_is_no_ram.2.1⟩

/-- Two addresses that agree on 12, and two on 13, pins. -/
theorem witness_AddressesThatAgreeOnThePinsReachTheSameByte :
    let s := onMember .mcs6503 plain
    let t := onMember .mcs6504 plain
    (0xFFFF : Word).toNat % 2 ^ addressPins s.cfg.member = (0x0FFF : Word).toNat % 2 ^ addressPins s.cfg.member ∧
      (0x2000 : Word).toNat % 2 ^ addressPins t.cfg.member = (0x0000 : Word).toNat % 2 ^ addressPins t.cfg.member ∧
      s.NoDma ∧ s.IsRam 0xFFFF := ⟨by decide, by decide, rfl, rfl⟩

theorem witness_DeviceReadsTakeTheEnvironmentsBytes :
    let s := { mapped 0xD000 1 .device plain with env := { Env.idle with deviceIn := [0x5A, 0xA5] } }
    s.NoDma ∧ s.kindOf 0xD000 = .device ∧ s.env.deviceIn = [0x5A, 0xA5] := ⟨rfl, rfl, rfl⟩

/-- `MemoryKept` in the statements of the addressing modes and of the instructions that store nothing. -/
theorem witness_MemoryKept : plain.NoDma := rfl

/-- The pointer at $FF wraps, and so does the index addition. -/
theorem witness_PointersInPageZeroWrapInPageZero : plain.NoDma ∧ ∀ k : Byte, plain.IsMemory (zext16 k) :=
  ⟨rfl, fun _ => .inl rfl⟩

theorem witness_OperandReadIsTheByteAtTheEffectiveAddress :
    plain.NoDma ∧ plain.IsMemory (effectiveAddr .load (.indY 0xFF) plain).1 := ⟨rfl, .inl rfl⟩

/-- The clauses of `Stores`: RAM at the wrapped address, ROM, and another byte. -/
theorem witness_Stores :
    plain.IsRam (effectiveAddr .modify (.absX 0xFFFF) plain).1 ∧
      (withRom.NoDma ∧ ¬ withRom.IsRam (effectiveAddr .modify (.abs 0xFFFF) withRom).1) ∧
      (plain.NoDma ∧ busAddr plain.cfg.member 0x0000 ≠
        busAddr plain.cfg.member (effectiveAddr .modify (.absX 0xFFFF) plain).1) :=
  ⟨rfl, ⟨rfl, withRom_upper_is_no_ram.2.1⟩, rfl, by decide⟩

/-- The clauses of `Modifies`, as those of `Stores`, with memory to read. -/
theorem witness_Modifies :
    plain.IsRam (effectiveAddr .modify (.zpX 0xFF) plain).1 ∧
      (plain.NoDma ∧ plain.IsMemory (effectiveAddr .modify (.zpX 0xFF) plain).1) ∧
      (withRom.NoDma ∧ ¬ withRom.IsRam (effectiveAddr .modify (.abs 0xFFFF) withRom).1) ∧
      (plain.NoDma ∧ busAddr plain.cfg.member 0xFFFF ≠
        busAddr plain.cfg.member (effectiveAddr .modify (.zpX 0xFF) plain).1) :=
  ⟨rfl, ⟨rfl, .inl rfl⟩, ⟨rfl, withRom_upper_is_no_ram.2.1⟩, rfl, by decide⟩

theorem witness_AdcAddsInBinary : plain.p.d = false ∧ plain.NoDma := ⟨rfl, rfl⟩
theorem witness_SbcSubtractsInBinary : plain.p.d = false ∧ plain.NoDma := ⟨rfl, rfl⟩

theorem witness_OverflowFlagReportsSignedOverflow : plain.p.d = false := rfl

theorem witness_AdcAddsInDecimal :
    decimal.p.d = true ∧ validBcd decimal.a = true ∧ decimal.NoDma ∧ validBcd 0x99 = true ∧ validBcd 0x00 = true := by
  refine ⟨rfl, ?_, rfl, ?_, ?_⟩ <;> decide

theorem witness_SbcSubtractsInDecimal :
    decimal.p.d = true ∧ validBcd decimal.a = true ∧ decimal.NoDma ∧ validBcd 0x99 = true ∧ validBcd 0x00 = true :=
  witness_AdcAddsInDecimal

theorem witness_InvalidBcdLeavesTheRestAlone : decimal.p.d = true ∧ decimal.NoDma ∧ validBcd 0x0A = false :=
  ⟨rfl, rfl, by decide⟩

theorem witness_ReadModifyWriteWritesTheOldByteFirst :
    plain.IsRam (effectiveAddr .modify (.absX 0xFFFF) plain).1 := rfl

/-- A pointer whose second byte wraps within its page. -/
theorem witness_JmpLoadsThePC :
    plain.NoDma ∧ plain.IsMemory 0x02FF ∧ plain.IsMemory (BitVec.ofNat 16 (256 * (0x02FF / 256) + (0x02FF + 1) % 256)) :=
  ⟨rfl, .inl rfl, .inl rfl⟩

theorem witness_JsrPushesTheAddressOfItsLastByte :
    plain.NoDma ∧ plain.IsMemory (plain.pc - 1) ∧ plain.IsRam (stackAddr plain.sp) ∧
      plain.IsRam (stackAddr (plain.sp - 1)) := ⟨rfl, .inl rfl, rfl, rfl⟩

theorem witness_RtsPullsTheAddressAndAddsOne : plain.NoDma ∧ plain.StackIsMemory := ⟨rfl, fun _ => .inl rfl⟩

theorem witness_RtsReturnsBehindTheJsr :
    plain.NoDma ∧ plain.StackIsRam ∧
      ∃ t u, exec (.jsr 0x1234) plain = .next t ∧ exec .rts t = .next u :=
  ⟨rfl, fun _ => rfl, _, _, rfl, rfl⟩

theorem witness_PushesStoreAndMoveTheStackPointer :
    plain.IsRam (stackAddr plain.sp) ∧ plain.NoDma ∧
      busAddr plain.cfg.member 0x0100 ≠ busAddr plain.cfg.member (stackAddr plain.sp) := ⟨rfl, rfl, by decide⟩

/-- S = $FF, so that S + 1 wraps. -/
theorem witness_PullsLoadAAndTheFlags : plain.sp = 0xFF ∧ plain.NoDma ∧ plain.StackIsMemory :=
  ⟨rfl, rfl, fun _ => .inl rfl⟩

theorem witness_BrkTakesTheTrapThroughTheIrqVector :
    plain.nmiEdgeDuring = false ∧ plain.NoDma ∧ plain.IsMemory 0xFFFE ∧ plain.IsMemory (0xFFFE + 1) ∧
      plain.IsRam (stackAddr plain.sp) := ⟨rfl, rfl, .inl rfl, .inl rfl, rfl⟩

/-- Both clauses: a BRK, and a step that recognises IRQ. -/
theorem witness_NmiEdgeDuringBrkTakesItsVector :
    (let s := { plain with env := { Env.idle with now := { Sample.idle with nmiDuring := true } } }
    s.nmiEdgeDuring = true ∧ s.NoDma ∧ s.IsMemory 0xFFFA) ∧
    let u := (seeing { irqLow with nmiDuring := true } atI1).sampled
    recognise u = .irq ∧ u.env.now.resDuring = none ∧ u.nmiEdgeDuring = true ∧ u.NoDma :=
  ⟨⟨rfl, rfl, .inl rfl⟩, rfl, rfl, rfl, rfl⟩

theorem witness_RtiRestoresPAndPC : plain.NoDma ∧ plain.StackIsMemory := ⟨rfl, fun _ => .inl rfl⟩

/-- The three traps RTI can return from. -/
theorem witness_RtiResumesWhereTheTrapWasTaken :
    (plain.NoDma ∧ plain.StackIsRam) ∧
      (∃ t u, exec .brk plain = .next t ∧ exec .rti t = .next u) ∧
      (∃ u, exec .rti (irqSequence plain) = .next u) ∧ ∃ u, exec .rti (nmiSequence plain) = .next u :=
  ⟨⟨rfl, fun _ => rfl⟩, ⟨_, _, rfl, rfl⟩, ⟨_, rfl⟩, _, rfl⟩

/-- Each of the ten registers and flags is written by some instruction. -/
theorem witness_OnlyTheNamedInstructionsWriteEachRegister :
    after (fun t => t.p.n) (machine 0x0300 [0xA9, 0x80]) = some true ∧
      after (fun t => t.p.z) (machine 0x0300 [0xA9, 0x00]) = some true ∧
      after (fun t => t.p.d) (machine 0x0300 [0xF8]) = some true ∧
      after (fun t => t.p.i) (machine 0x0300 [0x00]) = some true ∧
      after (fun t => t.p.v) (machine 0x0300 [0x2C, 0x10, 0x00] [(0x10, 0x40)]) = some true ∧
      after (fun t => t.p.c) (machine 0x0300 [0x38]) = some true ∧
      after (fun t => t.sp) (machine 0x0300 [0x9A]) = some 0x00 ∧
      after (fun t => t.x) (machine 0x0300 [0xBA]) = some 0xFF ∧
      after (fun t => t.y) (machine 0x0300 [0x88]) = some 0xFF ∧
      after (fun t => t.a) (machine 0x0300 [0xA9, 0x01]) = some 0x01 := by
  refine ⟨?_, ?_, ?_, ?_, ?_, ?_, ?_, ?_, ?_, ?_⟩ <;> decide

theorem witness_BusCyclesAreTheCycleCounts : ∃ t, exec (.incAbsX 0xFFFF) plain = .next t := ⟨_, rfl⟩

/-- A sampled state for each of the six answers. -/
theorem witness_RecognitionFollowsThePriority :
    recognise (seeing { irqLow with resLow := true } { atI1 with inReset := true }).sampled = .held ∧
      recognise (seeing { irqLow with rdyLow := true } { atI1 with inReset := true }).sampled = .reset ∧
      recognise (seeing { irqLow with rdyLow := true } { atI1 with nmiPending := true }).sampled = .halted ∧
      recognise (seeing irqLow { atI1 with nmiPending := true }).sampled = .nmi ∧
      recognise (seeing irqLow atI1).sampled = .irq ∧
      recognise (seeing { irqLow with useOldMask := true } { atI1 with oldI := some true }).sampled = .instruction := by
  decide

/-- On a device in page one, and with an S.O. edge during the step. -/
theorem witness_IrqStepTakesTheTrap :
    let u := (seeing { irqLow with soDuring := true } (mapped 0x01FF 1 .device atI1)).sampled
    recognise u = .irq ∧ u.env.now.resDuring = none ∧ u.nmiEdgeDuring = false ∧ u.NoDma ∧ u.IsMemory 0xFFFE :=
  ⟨rfl, rfl, rfl, rfl, .inl rfl⟩

/-- With a second edge during the step. -/
theorem witness_NmiStepTakesTheTrapAndClearsTheLatch :
    let u := (seeing { nmiEdge with nmiDuring := true } atI1).sampled
    recognise u = .nmi ∧ u.env.now.resDuring = none ∧ u.NoDma ∧ u.IsMemory 0xFFFA := ⟨rfl, rfl, rfl, .inl rfl⟩

theorem witness_ResetStepSetsTheMaskAndLoadsTheVector :
    let s : State := { atI1 with inReset := true, nmiPending := true }
    recognise s.sampled = .reset ∧ s.sampled.env.now.resDuring = none ∧ s.NoDma ∧ s.IsMemory 0xFFFC ∧
      s.IsMemory 0xFFFD := ⟨rfl, rfl, rfl, .inl rfl, .inl rfl⟩

/-- The three clauses: held and halted with an NMI pending, and INC cut off after its read. -/
theorem witness_HeldAndHaltedProcessorsChangeNothing :
    recognise (seeing { Sample.idle with resLow := true } { atI1 with nmiPending := true }).sampled = .held ∧
      (let u := (seeing { Sample.idle with rdyLow := true, nmiDuring := true } { atI1 with nmiPending := true }).sampled
      recognise u = .halted ∧ u.env.now.resDuring = none) ∧
      let s := seeing { Sample.idle with resDuring := some { after := 2, goesOn := 0 } } (machine 0x0300 [0xE6, 0x22])
      recognise s.sampled ≠ .held ∧ s.sampled.env.now.resDuring = some { after := 2, goesOn := 0 } ∧ s.NoDma ∧
        ∃ v, perform s.sampled = .next v := by
  refine ⟨rfl, ⟨rfl, rfl⟩, ?_, rfl, rfl, _, rfl⟩
  decide

/-- Both clauses, the second with both edges during a CLV. -/
theorem witness_EdgesSetOnlyTheirBit :
    (seeing { nmiEdge with soEdge := true } atI1).env.samples = [{ nmiEdge with soEdge := true }] ∧
      let u := (seeing { Sample.idle with soDuring := true, nmiDuring := true } (machine 0x0300 [0xB8])).sampled
      recognise u = .instruction ∧ u.env.now.resDuring = none ∧ ∃ w, fetch u = .ok (.clv, w) :=
  ⟨rfl, rfl, rfl, _, rfl⟩

/-- CLI is fetched and run, and notes the old I. -/
theorem witness_OldMaskCountsOnlyRightAfterCliSeiPlp :
    ∃ s1 t, fetch (machine 0x0300 [0x58]) = .ok (.cli, s1) ∧ runInstruction (machine 0x0300 [0x58]) = .next t ∧
      t.oldI ≠ none := by
  refine ⟨_, _, rfl, rfl, ?_⟩
  decide

end Sys2Proof.Tests
end

section
/-! PROOFS. What every instruction keeps, and with it that no step changes the member or the memory map (00_scope.md R5,
20_memory.md R57). -/

namespace Sys2Proof.Machine

/-- Every instruction answers a next state and keeps what every operation keeps. The cases are grouped by the operation
the meaning calls, since the addressing mode makes no difference to it. -/
theorem exec_keeps (i : Instr) (s : State) : ∃ t, exec i s = .next t ∧ Keeps s t := by
  cases i with
  | ldaImm v => exact ⟨_, rfl, keeps_loadIntoA (v, s)⟩
  | ldaIndX | ldaZp | ldaAbs | ldaIndY | ldaZpX | ldaAbsY | ldaAbsX =>
    exact ⟨_, rfl, (keeps_readOperand _ _).trans (keeps_loadIntoA _)⟩
  | ldxImm v => exact ⟨_, rfl, keeps_loadIntoX (v, s)⟩
  | ldxZp | ldxAbs | ldxZpY | ldxAbsY => exact ⟨_, rfl, (keeps_readOperand _ _).trans (keeps_loadIntoX _)⟩
  | ldyImm v => exact ⟨_, rfl, keeps_loadIntoY (v, s)⟩
  | ldyZp | ldyAbs | ldyZpX | ldyAbsX => exact ⟨_, rfl, (keeps_readOperand _ _).trans (keeps_loadIntoY _)⟩
  | staIndX | staZp | staAbs | staIndY | staZpX | staAbsY | staAbsX | stxZp | stxAbs | stxZpY | styZp | styAbs
  | styZpX => exact ⟨_, rfl, keeps_storeOperand _ _ _⟩
  | txa | tya => exact ⟨_, rfl, keeps_loadA _ _⟩
  | tax | tsx | inx | dex => exact ⟨_, rfl, keeps_loadX _ _⟩
  | tay | iny | dey => exact ⟨_, rfl, keeps_loadY _ _⟩
  | txs => exact ⟨_, rfl, keeps_setSp _ _⟩
  | adcImm v => exact ⟨_, rfl, keeps_addToA (v, s)⟩
  | adcIndX | adcZp | adcAbs | adcIndY | adcZpX | adcAbsY | adcAbsX =>
    exact ⟨_, rfl, (keeps_readOperand _ _).trans (keeps_addToA _)⟩
  | sbcImm v => exact ⟨_, rfl, keeps_subFromA (v, s)⟩
  | sbcIndX | sbcZp | sbcAbs | sbcIndY | sbcZpX | sbcAbsY | sbcAbsX =>
    exact ⟨_, rfl, (keeps_readOperand _ _).trans (keeps_subFromA _)⟩
  | cmpImm v => exact ⟨_, rfl, keeps_compareWithA (v, s)⟩
  | cmpIndX | cmpZp | cmpAbs | cmpIndY | cmpZpX | cmpAbsY | cmpAbsX =>
    exact ⟨_, rfl, (keeps_readOperand _ _).trans (keeps_compareWithA _)⟩
  | cpxImm v => exact ⟨_, rfl, keeps_compareWithX (v, s)⟩
  | cpxZp | cpxAbs => exact ⟨_, rfl, (keeps_readOperand _ _).trans (keeps_compareWithX _)⟩
  | cpyImm v => exact ⟨_, rfl, keeps_compareWithY (v, s)⟩
  | cpyZp | cpyAbs => exact ⟨_, rfl, (keeps_readOperand _ _).trans (keeps_compareWithY _)⟩
  | andImm v => exact ⟨_, rfl, keeps_andIntoA (v, s)⟩
  | andIndX | andZp | andAbs | andIndY | andZpX | andAbsY | andAbsX =>
    exact ⟨_, rfl, (keeps_readOperand _ _).trans (keeps_andIntoA _)⟩
  | oraImm v => exact ⟨_, rfl, keeps_orIntoA (v, s)⟩
  | oraIndX | oraZp | oraAbs | oraIndY | oraZpX | oraAbsY | oraAbsX =>
    exact ⟨_, rfl, (keeps_readOperand _ _).trans (keeps_orIntoA _)⟩
  | eorImm v => exact ⟨_, rfl, keeps_xorIntoA (v, s)⟩
  | eorIndX | eorZp | eorAbs | eorIndY | eorZpX | eorAbsY | eorAbsX =>
    exact ⟨_, rfl, (keeps_readOperand _ _).trans (keeps_xorIntoA _)⟩
  | bitZp | bitAbs => exact ⟨_, rfl, (keeps_readOperand _ _).trans (keeps_testBits _)⟩
  | incZp | incAbs | incZpX | incAbsX | decZp | decAbs | decZpX | decAbsX
  | aslZp | aslAbs | aslZpX | aslAbsX | lsrZp | lsrAbs | lsrZpX | lsrAbsX
  | rolZp | rolAbs | rolZpX | rolAbsX | rorZp | rorAbs | rorZpX | rorAbsX =>
    exact ⟨_, rfl, keeps_modifyOperand _ _ _⟩
  | aslAcc | lsrAcc | rolAcc | rorAcc => exact ⟨_, rfl, keeps_modifyA _ _⟩
  | bcc | bcs | beq | bne | bmi | bpl | bvc | bvs => exact ⟨_, rfl, keeps_branch _ _ _⟩
  | jmpAbs => exact ⟨_, rfl, keeps_setPc _ _⟩
  | jmpInd => exact ⟨_, rfl, keeps_jumpIndirect _ _⟩
  | jsr => exact ⟨_, rfl, keeps_callSubroutine _ _⟩
  | rts => exact ⟨_, rfl, keeps_returnFromSubroutine _⟩
  | pha | php => exact ⟨_, rfl, keeps_push _ _⟩
  | pla => exact ⟨_, rfl, (keeps_peekStack _).trans ((keeps_pull _).trans (keeps_loadIntoA _))⟩
  | plp => exact ⟨_, rfl, keeps_pullStatus _⟩
  | clc | sec | cld | sed | clv => exact ⟨_, rfl, keeps_setP _ _⟩
  | cli | sei => exact ⟨_, rfl, (keeps_setP _ _).trans (keeps_setOldI _ _)⟩
  | nop => exact ⟨_, rfl, .refl s⟩
  | brk => exact ⟨_, rfl, keeps_takeTrap _ _ _⟩
  | rti => exact ⟨_, rfl, keeps_returnFromTrap _⟩

/-- `exec_keeps` for a next state that is known already. -/
theorem keeps_of_exec {i : Instr} {s t : State} (h : exec i s = .next t) : Keeps s t := by
  obtain ⟨u, hu, k⟩ := exec_keeps i s
  cases hu.symm.trans h
  exact k

theorem keeps_of_fetch {i : Instr} {s t : State} (h : fetch s = .ok (i, t)) : Keeps s t := by
  obtain ⟨_, _, _, _, u, _, _, _, _, k, rfl⟩ := fetch_ok h
  exact k.trans (keeps_setPc _ _)

theorem keeps_holdInReset (s : State) : Keeps s (holdInReset s) :=
  (keeps_setInReset _ _).trans ((keeps_clearNmi _).trans (keeps_setOldI _ _))

/-- The edges inside a step leave the platform alone, be it that RES cuts the step off or not. -/
theorem afterStep_cfg {s t : State} (h : t.cfg = s.cfg) : (afterStep s t).cfg = s.cfg := by
  cases hr : s.env.now.resDuring with
  | none => rw [afterStep_of_noRes hr]; exact h
  | some r => exact cutOffByRes_cfg hr

/-- Settles O12, boundary by boundary (`step_cases`): what is performed there keeps the platform, and so do the sample
before it and the edges inside it. -/
theorem noStepChangesThePlatform : Obligations.NoStepChangesThePlatform := by
  intro s t h
  rw [← sampled_cfg s]
  rcases step_cases h with ⟨_, rfl⟩ | ⟨_, rfl⟩ | ⟨_, rfl⟩ | ⟨_, rfl⟩ | ⟨_, rfl⟩ | ⟨_, i, u, v, hf, he, rfl⟩
  · exact (keeps_holdInReset _).cfg
  · exact afterStep_cfg (keeps_resetSequence _).cfg
  · exact afterStep_cfg rfl
  · exact afterStep_cfg (keeps_nmiSequence _).cfg
  · exact afterStep_cfg (keeps_irqSequence _).cfg
  · have k : Keeps s.sampled v := (keeps_of_fetch hf).trans ((keeps_setOldI _ _).trans (keeps_of_exec he))
    exact afterStep_cfg k.cfg

end Sys2Proof.Machine
end

section
/-! PROOFS. The state after reset (10_state.md R39), and what the pins do at a boundary and during a step (10_state.md
R34, R36 to R38, 60_exceptions.md R238). -/

namespace Sys2Proof.Machine

/-! ## The state after reset -/

/-- Settles O10: nothing is listed in memory, and no NMI is pending. -/
theorem resetMeetsTheInvariant : Obligations.ResetMeetsTheInvariant :=
  have canonical : State.reset.mem.wf = true := rfl
  have withinPins : State.reset.mem.below (2 ^ addressPins State.reset.cfg.member) = true := rfl
  have noNmi : State.reset.nmiPending = false := rfl
  ⟨canonical, withinPins, fun h => absurd h (by rw [noNmi]; decide)⟩

/-- Settles O11: the state after reset is a literal, whose PC is read from its own memory. -/
theorem resetLeavesWhatTheSpecGives : Obligations.ResetLeavesWhatTheSpecGives := ⟨rfl, rfl, rfl, rfl⟩

/-! ## The sample of the pins -/

@[simp] theorem sampled_dma (s : State) : s.sampled.env.dma = s.env.dma := nextSample_dma s

theorem sampled_noDma {s : State} (h : s.NoDma) : s.sampled.NoDma := (sampled_dma s).trans h

@[simp] theorem sampled_inReset (s : State) : s.sampled.inReset = s.inReset := by
  show (nextSample s).inReset = s.inReset
  unfold nextSample; split <;> rfl

/-- All that taking a sample does to the processor: an edge sets V or latches an NMI, on a member with the pin. -/
theorem sampled_cpu_of_samples {s : State} {x : Sample} {later : List Sample} (h : s.env.samples = x :: later) :
    s.sampled.cpu = { s.cpu with
      samples := later
      now := x
      p := { s.p with v := s.p.v || (hasSo s.cfg.member && x.soEdge) }
      nmiPending := s.nmiPending || (hasNmi s.cfg.member && x.nmiEdge) } := by
  have e : nextSample s = s.setEnv { s.env with samples := later, now := x, trace := [] } := by
    unfold nextSample; rw [h]
  rw [State.sampled, e]; rfl

/-! ## The answers of a boundary -/

/-- No NMI is pending where an instruction is fetched (60_exceptions.md R226). -/
theorem nmiPending_of_recognise_instruction {s : State} (h : recognise s = .instruction) : s.nmiPending = false := by
  cases hn : s.nmiPending with
  | false => rfl
  | true =>
    simp only [recognise, hn, if_true] at h
    split_ifs at h

/-- While a reset is under way, a boundary holds the processor or starts the reset sequence (60_exceptions.md R238). -/
theorem recognise_of_inReset {s : State} (h : s.inReset = true) : recognise s = .held ∨ recognise s = .reset := by
  cases hr : s.env.now.resLow with
  | true => exact .inl (by simp only [recognise, hr, if_true])
  | false => exact .inr (by simp only [recognise, hr, h, if_true]; rfl)

/-! ## RES going low during a step -/

/-- All that counts of a step that RES cuts off are the bus cycles it would have made. -/
theorem afterStep_of_res {s : State} {r : ResFall} (h : s.env.now.resDuring = some r) (t : State) :
    afterStep s t = cutOffByRes s t := by
  simp only [afterStep, cutOffByRes, h, setVDuring, latchNmi_eq, State.setP_env, State.setNmiPending_env]

/-- A step that RES has cut off leaves the reset under way (60_exceptions.md R238). -/
theorem cutOffByRes_inReset {s : State} {r : ResFall} (h : s.env.now.resDuring = some r) (t : State) :
    (cutOffByRes s t).inReset = true := by
  simp only [cutOffByRes, h, State.setInReset_inReset]

/-! ## Held and halted -/

/-- A processor held in reset keeps its registers and makes no bus cycle. -/
theorem step_held_changes_nothing {s : State} (h : recognise s.sampled = .held) :
    ∃ t, step s = .next t ∧ t.mem = s.mem ∧ t.env.trace = [] ∧ t.env.dma = s.env.dma ∧
      t.cpu = { s.sampled.cpu with inReset := true, nmiPending := false, oldI := none } :=
  ⟨holdInReset s.sampled, step_held h, sampled_mem s, sampled_trace s, sampled_dma s, rfl⟩

/-- A halted processor keeps its registers and makes no bus cycle, but for the edges that come during the step. -/
theorem step_halted_changes_nothing {s : State} (h : recognise s.sampled = .halted)
    (hr : s.sampled.env.now.resDuring = none) :
    ∃ t, step s = .next t ∧ t.mem = s.mem ∧ t.env.trace = [] ∧ t.env.dma = s.env.dma ∧
      t.cpu = { s.sampled.cpu with
        nmiPending := s.sampled.nmiPending || s.sampled.nmiEdgeDuring
        p := s.sampled.withSoDuring s.sampled.p } := by
  refine ⟨_, step_halted h, ?_⟩
  rw [afterStep_of_noRes hr]
  refine ⟨sampled_mem s, sampled_trace s, sampled_dma s, ?_⟩
  rw [State.setP_cpu, State.setNmiPending_cpu, Bool.and_self, Bool.and_comm]; rfl

/-- RES going low during a step: the cycles until then, the reads for which the processor goes on, no write, and a reset
at the next boundary. -/
theorem step_cut_off_by_res {s v : State} {r : ResFall} (h : recognise s.sampled ≠ .held)
    (hr : s.sampled.env.now.resDuring = some r) (hp : perform s.sampled = .next v) :
    ∃ t seen, step s = .next t ∧ t.cfg = s.cfg ∧ t.env.trace = v.env.trace.take (r.after + 1) ++ seen ∧
      List.Forall₂ (ShownUnderRes s.cfg v.env.trace)
        ((((v.env.trace.drop (r.after + 1)).take r.goesOn).zipIdx (r.after + 1)).filter (fun c => c.1.write = false))
        seen ∧
      (s.NoDma → ∀ addr, (∀ c ∈ v.env.trace, c.write = true → c.addr ≠ busAddr s.cfg.member addr) →
        t.peek addr = s.peek addr) ∧
      (recognise t.sampled = .held ∨ recognise t.sampled = .reset) := by
  have hs := step_perform h hp
  rw [afterStep_of_res hr] at hs
  have hc : (cutOffByRes s.sampled v).cfg = s.cfg := (cutOffByRes_cfg hr).trans (sampled_cfg s)
  obtain ⟨seen, ht, hseen⟩ := cutOffByRes_trace (t := v) hr
  rw [sampled_trace, List.nil_append] at ht
  rw [sampled_cfg] at hseen
  refine ⟨_, seen, hs, hc, ht, hseen, fun hd addr ha => ?_, ?_⟩
  · rw [State.peek, hc, cutOffByRes_read hr (sampled_noDma hd) ha, sampled_mem]; rfl
  · exact recognise_of_inReset ((sampled_inReset _).trans (cutOffByRes_inReset hr v))

/-- Settles O58, a clause for each of the three boundaries. -/
theorem heldAndHaltedProcessorsChangeNothing : Obligations.HeldAndHaltedProcessorsChangeNothing := fun _ =>
  ⟨step_held_changes_nothing, step_halted_changes_nothing, fun _ _ => step_cut_off_by_res⟩

end Sys2Proof.Machine
end

section
/-! PROOFS. Which registers and flags each instruction can write (10_state.md R20 to R23, R26, R27, R29 to R32), and
what it leaves for the edges that come during it (10_state.md R34, R36). -/

namespace Sys2Proof.Machine

/-! ## Registers and their writers -/

/-- What an instruction can write of the processor, as far as the spec lists its writers. -/
inductive Writable where
  | a | x | y | sp
  /-- N and Z, which have the same writers (10_state.md R31). -/
  | nz
  | v | d | i | c
  /-- The NMI latch and the edge of the sample, which a BRK can use up (60_exceptions.md R232). -/
  | nmi

/-- Both processors hold the same there. -/
def Writable.Same (r : Writable) (c d : Cpu) : Prop :=
  match r with
  | .a => d.a = c.a
  | .x => d.x = c.x
  | .y => d.y = c.y
  | .sp => d.sp = c.sp
  | .nz => d.p.n = c.p.n ∧ d.p.z = c.p.z
  | .v => d.p.v = c.p.v
  | .d => d.p.d = c.p.d
  | .i => d.p.i = c.p.i
  | .c => d.p.c = c.p.c
  | .nmi => d.nmiPending = c.nmiPending ∧ d.now = c.now

/-- The opcodes of ADC and SBC. -/
def addSubOpcodes : List Byte :=
  [0x61, 0x65, 0x69, 0x6D, 0x71, 0x75, 0x79, 0x7D, 0xE1, 0xE5, 0xE9, 0xED, 0xF1, 0xF5, 0xF9, 0xFD]

/-- The opcodes that write neither N nor Z (10_state.md R26), BRK among them: stores; TXS, pushes, jumps; branches; the
flag instructions, NOP and BRK. -/
def nzKeepingOpcodes : List Byte :=
  [0x81, 0x85, 0x8D, 0x91, 0x95, 0x99, 0x9D, 0x86, 0x8E, 0x96, 0x84, 0x8C, 0x94] ++
    [0x9A, 0x48, 0x08, 0x4C, 0x6C, 0x20, 0x60] ++
    [0x90, 0xB0, 0xF0, 0xD0, 0x30, 0x10, 0x50, 0x70] ++
    [0x18, 0x38, 0x58, 0x78, 0xD8, 0xF8, 0xB8, 0xEA, 0x00]

/-- The spec names the instruction among the writers (10_state.md R20 to R23, R26, R27, R29 to R32). -/
def Writable.namedWriter (r : Writable) (i : Instr) : Bool :=
  match r with
  | .nz => !nzKeepingOpcodes.contains (opcode i)
  | .d => ([0xF8, 0xD8, 0x28, 0x40] : List Byte).contains (opcode i)
  | .i => ([0x58, 0x78, 0x28, 0x40, 0x00] : List Byte).contains (opcode i)
  | .v => (addSubOpcodes ++ [0x24, 0x2C, 0xB8, 0x28, 0x40]).contains (opcode i)
  | .c => (addSubOpcodes ++
      [0xC1, 0xC5, 0xC9, 0xCD, 0xD1, 0xD5, 0xD9, 0xDD, 0xE0, 0xE4, 0xEC, 0xC0, 0xC4, 0xCC] ++
      [0x06, 0x0A, 0x0E, 0x16, 0x1E, 0x46, 0x4A, 0x4E, 0x56, 0x5E] ++
      [0x26, 0x2A, 0x2E, 0x36, 0x3E, 0x66, 0x6A, 0x6E, 0x76, 0x7E] ++ [0x18, 0x38, 0x28, 0x40]).contains (opcode i)
  | .sp => ([0x9A, 0x48, 0x08, 0x68, 0x28, 0x20, 0x60, 0x00, 0x40] : List Byte).contains (opcode i)
  | .x => ([0xA2, 0xA6, 0xAE, 0xB6, 0xBE, 0xAA, 0xBA, 0xE8, 0xCA] : List Byte).contains (opcode i)
  | .y => ([0xA0, 0xA4, 0xAC, 0xB4, 0xBC, 0xA8, 0xC8, 0x88] : List Byte).contains (opcode i)
  | .a => (addSubOpcodes ++
      [0x21, 0x25, 0x29, 0x2D, 0x31, 0x35, 0x39, 0x3D, 0x01, 0x05, 0x09, 0x0D, 0x11, 0x15, 0x19, 0x1D] ++
      [0x41, 0x45, 0x49, 0x4D, 0x51, 0x55, 0x59, 0x5D, 0xA1, 0xA5, 0xA9, 0xAD, 0xB1, 0xB5, 0xB9, 0xBD] ++
      [0x68, 0x8A, 0x98] ++ [0x0A, 0x4A, 0x2A, 0x6A]).contains (opcode i)
  | .nmi => decide (i = .brk)

/-- From `c` to `d` nothing but the parts in the list has been written. -/
def SameBut (ws : List Writable) (c d : Cpu) : Prop := ∀ r, r ∈ ws ∨ r.Same c d

/-- From `c` to `d` the instruction has written only what the spec names it a writer of. -/
def WritesOnlyNamed (i : Instr) (c d : Cpu) : Prop := ∀ r : Writable, r.Same c d ∨ r.namedWriter i = true

theorem SameBut.writesOnlyNamed {ws : List Writable} {i : Instr} {c d : Cpu} (h : SameBut ws c d)
    (hw : ws.all (·.namedWriter i) = true) : WritesOnlyNamed i c d :=
  fun r => (h r).symm.imp_right (List.all_eq_true.mp hw r)

theorem Writable.Same.trans {r : Writable} {c d e : Cpu} (h : r.Same c d) (k : r.Same d e) : r.Same c e := by
  cases r with
  | nz | nmi => exact ⟨k.1.trans h.1, k.2.trans h.2⟩
  | _ => exact Eq.trans k h

theorem SameBut.trans {ws vs : List Writable} {c d e : Cpu} (h : SameBut ws c d) (k : SameBut vs d e) :
    SameBut (ws ++ vs) c e := by
  intro r
  rcases h r with hr | hr
  · exact .inl (List.mem_append_left _ hr)
  · exact (k r).imp (List.mem_append_right _) hr.trans

theorem SameBut.mono {ws vs : List Writable} {c d : Cpu} (h : SameBut ws c d) (hs : ws ⊆ vs) : SameBut vs c d :=
  fun r => (h r).imp_left (hs ·)

/-- Cycles before an operation that leave the processor alone make no difference to what it writes. -/
theorem SameBut.after {ws : List Writable} {b c d : Cpu} (h : SameBut ws c d) (e : c = b) : SameBut ws b d := e ▸ h

/-- The parts one by one. -/
theorem sameBut_iff {ws : List Writable} {c d : Cpu} : SameBut ws c d ↔
    (.a ∈ ws ∨ d.a = c.a) ∧ (.x ∈ ws ∨ d.x = c.x) ∧ (.y ∈ ws ∨ d.y = c.y) ∧ (.sp ∈ ws ∨ d.sp = c.sp) ∧
      (.nz ∈ ws ∨ d.p.n = c.p.n ∧ d.p.z = c.p.z) ∧ (.v ∈ ws ∨ d.p.v = c.p.v) ∧ (.d ∈ ws ∨ d.p.d = c.p.d) ∧
      (.i ∈ ws ∨ d.p.i = c.p.i) ∧ (.c ∈ ws ∨ d.p.c = c.p.c) ∧
      (.nmi ∈ ws ∨ d.nmiPending = c.nmiPending ∧ d.now = c.now) := by
  constructor
  · exact fun h => ⟨h .a, h .x, h .y, h .sp, h .nz, h .v, h .d, h .i, h .c, h .nmi⟩
  · rintro ⟨ha, hx, hy, hsp, hnz, hv, hd, hi, hc, hnmi⟩ r
    cases r <;> assumption

/-! ## What each operation writes -/

theorem sameBut_refl (c : Cpu) : SameBut [] c c := by simp [sameBut_iff]

theorem sameBut_setPc (s : State) (w : Word) : SameBut [] s.cpu (s.setPc w).cpu := by simp [sameBut_iff, State.cpu]

theorem sameBut_setA (s : State) (v : Byte) : SameBut [.a] s.cpu (s.setA v).cpu := by simp [sameBut_iff, State.cpu]

theorem sameBut_setX (s : State) (v : Byte) : SameBut [.x] s.cpu (s.setX v).cpu := by simp [sameBut_iff, State.cpu]

theorem sameBut_setY (s : State) (v : Byte) : SameBut [.y] s.cpu (s.setY v).cpu := by simp [sameBut_iff, State.cpu]

theorem sameBut_setSp (s : State) (v : Byte) : SameBut [.sp] s.cpu (s.setSp v).cpu := by simp [sameBut_iff, State.cpu]

theorem sameBut_setOldI (s : State) (o : Option Bool) : SameBut [] s.cpu (s.setOldI o).cpu := by
  simp [sameBut_iff, State.cpu]

theorem sameBut_setP (s : State) (p : Flags) : SameBut [.nz, .v, .d, .i, .c] s.cpu (s.setP p).cpu := by
  simp [sameBut_iff, State.cpu]

theorem sameBut_setNZ (c : Cpu) (v : Byte) : SameBut [.nz] c { c with p := c.p.setNZ v } := by
  simp [sameBut_iff, Flags.setNZ]

theorem sameBut_setNZC (c : Cpu) (v : Byte) (b : Bool) :
    SameBut [.nz, .c] c { c with p := { c.p.setNZ v with c := b } } := by simp [sameBut_iff, Flags.setNZ]

theorem sameBut_loadA (s : State) (v : Byte) : SameBut [.a, .nz] s.cpu (s.loadA v).cpu :=
  (sameBut_setA s v).trans (sameBut_setNZ _ v)

theorem sameBut_loadX (s : State) (v : Byte) : SameBut [.x, .nz] s.cpu (s.loadX v).cpu :=
  (sameBut_setX s v).trans (sameBut_setNZ _ v)

theorem sameBut_loadY (s : State) (v : Byte) : SameBut [.y, .nz] s.cpu (s.loadY v).cpu :=
  (sameBut_setY s v).trans (sameBut_setNZ _ v)

theorem sameBut_writeV (s : State) (b : Bool) : SameBut [.v] s.cpu (s.setP { s.p with v := b }).cpu := by
  simp [sameBut_iff, State.cpu]

theorem sameBut_writeD (s : State) (b : Bool) : SameBut [.d] s.cpu (s.setP { s.p with d := b }).cpu := by
  simp [sameBut_iff, State.cpu]

theorem sameBut_writeI (s : State) (b : Bool) : SameBut [.i] s.cpu (s.setP { s.p with i := b }).cpu := by
  simp [sameBut_iff, State.cpu]

theorem sameBut_writeC (s : State) (b : Bool) : SameBut [.c] s.cpu (s.setP { s.p with c := b }).cpu := by
  simp [sameBut_iff, State.cpu]

/-- A compare: N, Z and C, whichever register it compares (42_arithmetic.md R142). -/
theorem sameBut_compare (s : State) (reg m : Byte) :
    SameBut [.nz, .c] s.cpu (s.setP (compareFlags reg m s.p)).cpu := by simp [sameBut_iff, State.cpu, compareFlags]

theorem sameBut_testBits (r : Byte × State) : SameBut [.nz, .v] r.2.cpu (testBits r).cpu := by
  simp [sameBut_iff, State.cpu, testBits]

/-- An ADC or SBC, in either mode: A and the flags but D and I. -/
theorem sameBut_setAP {s : State} {r : Byte × Flags} (h : r.2.d = s.p.d ∧ r.2.i = s.p.i) :
    SameBut [.a, .nz, .v, .c] s.cpu (s.setAP r).cpu := by
  simp [sameBut_iff, State.cpu, State.setAP, h.1, h.2]

theorem sameBut_addToA (r : Byte × State) : SameBut [.a, .nz, .v, .c] r.2.cpu (addToA r).cpu := by
  simp only [addToA]
  split
  · exact sameBut_setAP (addDecimal_frame _ _ _ _)
  · exact sameBut_setAP ⟨rfl, rfl⟩

theorem sameBut_subFromA (r : Byte × State) : SameBut [.a, .nz, .v, .c] r.2.cpu (subFromA r).cpu := by
  simp only [subFromA]
  split
  · exact sameBut_setAP (subDecimal_frame _ _ _ _)
  · exact sameBut_setAP ⟨rfl, rfl⟩

/-- The flags a read-modify-write operation sets, apart from the byte it gives: INC and DEC leave C alone. -/
def SetsOnly (ws : List Writable) (f : Byte → Flags → Byte × Flags) : Prop :=
  ∀ (c : Cpu) (m : Byte), SameBut ws c { c with p := (f m c.p).2 }

theorem setsOnly_increment : SetsOnly [.nz] increment := fun c m => sameBut_setNZ c (m + 1)

theorem setsOnly_decrement : SetsOnly [.nz] decrement := fun c m => sameBut_setNZ c (m - 1)

theorem setsOnly_shiftLeft : SetsOnly [.nz, .c] shiftLeft := fun c _ => sameBut_setNZC c _ _

theorem setsOnly_shiftRight : SetsOnly [.nz, .c] shiftRight := fun c _ => sameBut_setNZC c _ _

theorem setsOnly_rotateLeft : SetsOnly [.nz, .c] rotateLeft := fun c _ => sameBut_setNZC c _ _

theorem setsOnly_rotateRight : SetsOnly [.nz, .c] rotateRight := fun c _ => sameBut_setNZC c _ _

theorem sameBut_storeOperand (m : MemOperand) (v : Byte) (s : State) : SameBut [] s.cpu (storeOperand m v s).cpu := by
  rw [(storeOperand_sameCpu m v s).cpu]; exact sameBut_refl s.cpu

theorem SetsOnly.modifyOperand {ws : List Writable} {f : Byte → Flags → Byte × Flags} (h : SetsOnly ws f)
    (m : MemOperand) (s : State) : SameBut ws s.cpu (modifyOperand m f s).cpu := by
  rw [modifyOperand_cpu]; exact h s.cpu _

/-- On the accumulator the operation writes A besides. -/
theorem SetsOnly.modifyA {ws : List Writable} {f : Byte → Flags → Byte × Flags} (h : SetsOnly ws f) (s : State) :
    SameBut (.a :: ws) s.cpu (modifyA f s).cpu :=
  (sameBut_setA s _).trans (h _ s.a)

/-! ### Control transfer, the stack and traps -/

theorem sameBut_branch (cond : Bool) (rel : Byte) (s : State) : SameBut [] s.cpu (branch cond rel s).cpu := by
  obtain ⟨t, ht, e⟩ := branch_readsOnly cond rel s
  rw [e]
  exact (sameBut_setPc t _).after ht.cpu

theorem sameBut_jumpIndirect (ptr : Word) (s : State) : SameBut [] s.cpu (jumpIndirect ptr s).cpu :=
  (sameBut_setPc _ _).after (jumpPointer_readsOnly ptr s).cpu

theorem sameBut_push (v : Byte) (s : State) : SameBut [.sp] s.cpu (push v s).cpu := by
  rw [push_cpu]; exact sameBut_setSp s _

/-- A pull after the discarded read of the stack top. -/
theorem sameBut_pull_peekStack (s : State) : SameBut [.sp] s.cpu (pull (peekStack s)).2.cpu := by
  rw [pull_cpu, peekStack_cpu]; exact sameBut_setSp s _

theorem sameBut_pullStatus (s : State) : SameBut [.sp, .nz, .v, .d, .i, .c] s.cpu (pullStatus s).cpu :=
  (sameBut_pull_peekStack s).trans ((sameBut_setP _ _).trans (sameBut_setOldI _ _))

theorem sameBut_callSubroutine (lo : Byte) (s : State) : SameBut [.sp] s.cpu (callSubroutine lo s).cpu := by
  rw [callSubroutine_cpu]
  exact (sameBut_setSp s (s.sp - 2)).trans (sameBut_setPc _ _)

theorem sameBut_returnFromSubroutine (s : State) : SameBut [.sp] s.cpu (returnFromSubroutine s).cpu := by
  rw [(returnFromSubroutine_readsOnly s).cpu]
  exact (sameBut_setSp s _).trans (sameBut_setPc _ _)

theorem sameBut_returnFromTrap (s : State) :
    SameBut [.sp, .nz, .v, .d, .i, .c] s.cpu (returnFromTrap s).cpu := by
  rw [(returnFromTrap_readsOnly s).cpu]
  exact (sameBut_setSp s _).trans ((sameBut_setP _ _).trans (sameBut_setPc _ _))

theorem sameBut_stackTrap (b : Bool) (ret : Word) (s : State) : SameBut [.sp, .i] s.cpu (stackTrap b ret s).cpu := by
  rw [stackTrap_cpu]
  exact (sameBut_setSp s (s.sp - 3)).trans (sameBut_writeI _ true)

theorem sameBut_loadVector (vec : Word) (s : State) : SameBut [] s.cpu (loadVector vec s).cpu := by
  rw [(loadVector_readsOnly vec s).cpu]
  exact sameBut_setPc s _

theorem sameBut_useUpNmi (s : State) : SameBut [.nmi] s.cpu (useUpNmi s).cpu := by simp [sameBut_iff]

/-- A BRK or IRQ sequence writes S and I, and the NMI latch and the sample's edge where that edge takes it over
(60_exceptions.md R232). -/
theorem sameBut_takeTrap (b : Bool) (ret : Word) (s : State) :
    SameBut [.sp, .i, .nmi] s.cpu (takeTrap b ret s).cpu := by
  have stacked := sameBut_stackTrap b ret s
  rw [takeTrap_eq]
  split
  · exact stacked.trans ((sameBut_useUpNmi _).trans (sameBut_loadVector _ _))
  · exact (stacked.trans (sameBut_loadVector _ _)).mono (by simp)

/-! ## What each instruction writes -/

/-- An instruction that reads its operand from memory writes what its operation does. -/
theorem SameBut.ofOperand {ws : List Writable} {op : Byte × State → State}
    (h : ∀ r : Byte × State, SameBut ws r.2.cpu (op r).cpu) (m : MemOperand) (s : State) :
    SameBut ws s.cpu (op (readOperand m s)).cpu := (h _).after (readOperand_cpu m s)

/-- Every instruction writes only what the spec names it a writer of. The cases are grouped by the operation the meaning
calls, which fixes what is written; that the spec names each opcode of the group a writer of it is then computed. -/
theorem exec_writesOnlyNamed (i : Instr) (s : State) : ∃ t, exec i s = .next t ∧ WritesOnlyNamed i s.cpu t.cpu := by
  cases i with
  | ldaImm v => exact ⟨_, rfl, (sameBut_loadA s v).writesOnlyNamed (by rfl)⟩
  | ldaIndX | ldaZp | ldaAbs | ldaIndY | ldaZpX | ldaAbsY | ldaAbsX =>
    exact ⟨_, rfl, (SameBut.ofOperand (fun r => sameBut_loadA r.2 r.1) _ s).writesOnlyNamed (by rfl)⟩
  | ldxImm v => exact ⟨_, rfl, (sameBut_loadX s v).writesOnlyNamed (by rfl)⟩
  | ldxZp | ldxAbs | ldxZpY | ldxAbsY =>
    exact ⟨_, rfl, (SameBut.ofOperand (fun r => sameBut_loadX r.2 r.1) _ s).writesOnlyNamed (by rfl)⟩
  | ldyImm v => exact ⟨_, rfl, (sameBut_loadY s v).writesOnlyNamed (by rfl)⟩
  | ldyZp | ldyAbs | ldyZpX | ldyAbsX =>
    exact ⟨_, rfl, (SameBut.ofOperand (fun r => sameBut_loadY r.2 r.1) _ s).writesOnlyNamed (by rfl)⟩
  | staIndX | staZp | staAbs | staIndY | staZpX | staAbsY | staAbsX | stxZp | stxAbs | stxZpY | styZp | styAbs
  | styZpX => exact ⟨_, rfl, (sameBut_storeOperand _ _ s).writesOnlyNamed (by rfl)⟩
  | txa | tya => exact ⟨_, rfl, (sameBut_loadA s _).writesOnlyNamed (by rfl)⟩
  | tax | tsx | inx | dex => exact ⟨_, rfl, (sameBut_loadX s _).writesOnlyNamed (by rfl)⟩
  | tay | iny | dey => exact ⟨_, rfl, (sameBut_loadY s _).writesOnlyNamed (by rfl)⟩
  | txs => exact ⟨_, rfl, (sameBut_setSp s _).writesOnlyNamed (by rfl)⟩
  | adcImm v => exact ⟨_, rfl, (sameBut_addToA (v, s)).writesOnlyNamed (by rfl)⟩
  | adcIndX | adcZp | adcAbs | adcIndY | adcZpX | adcAbsY | adcAbsX =>
    exact ⟨_, rfl, (SameBut.ofOperand sameBut_addToA _ s).writesOnlyNamed (by rfl)⟩
  | sbcImm v => exact ⟨_, rfl, (sameBut_subFromA (v, s)).writesOnlyNamed (by rfl)⟩
  | sbcIndX | sbcZp | sbcAbs | sbcIndY | sbcZpX | sbcAbsY | sbcAbsX =>
    exact ⟨_, rfl, (SameBut.ofOperand sameBut_subFromA _ s).writesOnlyNamed (by rfl)⟩
  | cmpImm v | cpxImm v | cpyImm v => exact ⟨_, rfl, (sameBut_compare s _ v).writesOnlyNamed (by rfl)⟩
  | cmpIndX | cmpZp | cmpAbs | cmpIndY | cmpZpX | cmpAbsY | cmpAbsX =>
    exact ⟨_, rfl, (SameBut.ofOperand (fun r => sameBut_compare r.2 r.2.a r.1) _ s).writesOnlyNamed (by rfl)⟩
  | cpxZp | cpxAbs =>
    exact ⟨_, rfl, (SameBut.ofOperand (fun r => sameBut_compare r.2 r.2.x r.1) _ s).writesOnlyNamed (by rfl)⟩
  | cpyZp | cpyAbs =>
    exact ⟨_, rfl, (SameBut.ofOperand (fun r => sameBut_compare r.2 r.2.y r.1) _ s).writesOnlyNamed (by rfl)⟩
  | andImm | oraImm | eorImm => exact ⟨_, rfl, (sameBut_loadA s _).writesOnlyNamed (by rfl)⟩
  | andIndX | andZp | andAbs | andIndY | andZpX | andAbsY | andAbsX =>
    exact ⟨_, rfl, (SameBut.ofOperand (fun r => sameBut_loadA r.2 (r.2.a &&& r.1)) _ s).writesOnlyNamed (by rfl)⟩
  | oraIndX | oraZp | oraAbs | oraIndY | oraZpX | oraAbsY | oraAbsX =>
    exact ⟨_, rfl, (SameBut.ofOperand (fun r => sameBut_loadA r.2 (r.2.a ||| r.1)) _ s).writesOnlyNamed (by rfl)⟩
  | eorIndX | eorZp | eorAbs | eorIndY | eorZpX | eorAbsY | eorAbsX =>
    exact ⟨_, rfl, (SameBut.ofOperand (fun r => sameBut_loadA r.2 (r.2.a ^^^ r.1)) _ s).writesOnlyNamed (by rfl)⟩
  | bitZp | bitAbs => exact ⟨_, rfl, (SameBut.ofOperand sameBut_testBits _ s).writesOnlyNamed (by rfl)⟩
  | incZp | incAbs | incZpX | incAbsX =>
    exact ⟨_, rfl, (setsOnly_increment.modifyOperand _ s).writesOnlyNamed (by rfl)⟩
  | decZp | decAbs | decZpX | decAbsX =>
    exact ⟨_, rfl, (setsOnly_decrement.modifyOperand _ s).writesOnlyNamed (by rfl)⟩
  | aslZp | aslAbs | aslZpX | aslAbsX =>
    exact ⟨_, rfl, (setsOnly_shiftLeft.modifyOperand _ s).writesOnlyNamed (by rfl)⟩
  | lsrZp | lsrAbs | lsrZpX | lsrAbsX =>
    exact ⟨_, rfl, (setsOnly_shiftRight.modifyOperand _ s).writesOnlyNamed (by rfl)⟩
  | rolZp | rolAbs | rolZpX | rolAbsX =>
    exact ⟨_, rfl, (setsOnly_rotateLeft.modifyOperand _ s).writesOnlyNamed (by rfl)⟩
  | rorZp | rorAbs | rorZpX | rorAbsX =>
    exact ⟨_, rfl, (setsOnly_rotateRight.modifyOperand _ s).writesOnlyNamed (by rfl)⟩
  | aslAcc => exact ⟨_, rfl, (setsOnly_shiftLeft.modifyA s).writesOnlyNamed (by rfl)⟩
  | lsrAcc => exact ⟨_, rfl, (setsOnly_shiftRight.modifyA s).writesOnlyNamed (by rfl)⟩
  | rolAcc => exact ⟨_, rfl, (setsOnly_rotateLeft.modifyA s).writesOnlyNamed (by rfl)⟩
  | rorAcc => exact ⟨_, rfl, (setsOnly_rotateRight.modifyA s).writesOnlyNamed (by rfl)⟩
  | bcc | bcs | beq | bne | bmi | bpl | bvc | bvs => exact ⟨_, rfl, (sameBut_branch _ _ s).writesOnlyNamed (by rfl)⟩
  | jmpAbs => exact ⟨_, rfl, (sameBut_setPc s _).writesOnlyNamed (by rfl)⟩
  | jmpInd => exact ⟨_, rfl, (sameBut_jumpIndirect _ s).writesOnlyNamed (by rfl)⟩
  | jsr => exact ⟨_, rfl, (sameBut_callSubroutine _ s).writesOnlyNamed (by rfl)⟩
  | rts => exact ⟨_, rfl, (sameBut_returnFromSubroutine s).writesOnlyNamed (by rfl)⟩
  | pha | php => exact ⟨_, rfl, (sameBut_push _ s).writesOnlyNamed (by rfl)⟩
  | pla => exact ⟨_, rfl, ((sameBut_pull_peekStack s).trans (sameBut_loadA _ _)).writesOnlyNamed (by rfl)⟩
  | plp => exact ⟨_, rfl, (sameBut_pullStatus s).writesOnlyNamed (by rfl)⟩
  | clc | sec => exact ⟨_, rfl, (sameBut_writeC s _).writesOnlyNamed (by rfl)⟩
  | cld | sed => exact ⟨_, rfl, (sameBut_writeD s _).writesOnlyNamed (by rfl)⟩
  | clv => exact ⟨_, rfl, (sameBut_writeV s _).writesOnlyNamed (by rfl)⟩
  | cli | sei => exact ⟨_, rfl, ((sameBut_writeI s _).trans (sameBut_setOldI _ _)).writesOnlyNamed (by rfl)⟩
  | nop => exact ⟨_, rfl, (sameBut_refl s.cpu).writesOnlyNamed (by rfl)⟩
  | brk => exact ⟨_, rfl, (sameBut_takeTrap _ _ s).writesOnlyNamed (by rfl)⟩
  | rti => exact ⟨_, rfl, (sameBut_returnFromTrap s).writesOnlyNamed (by rfl)⟩

/-- `exec_writesOnlyNamed` for a next state that is known already. -/
theorem writesOnlyNamed_of_exec {i : Instr} {s t : State} (h : exec i s = .next t) : WritesOnlyNamed i s.cpu t.cpu := by
  obtain ⟨u, hu, w⟩ := exec_writesOnlyNamed i s
  cases hu.symm.trans h
  exact w

/-- What has changed, the instruction is a named writer of. -/
theorem WritesOnlyNamed.named {i : Instr} {c d : Cpu} (h : WritesOnlyNamed i c d) (r : Writable) (hr : ¬ r.Same c d) :
    r.namedWriter i = true := (h r).resolve_left hr

/-- Settles O52, list by list. -/
theorem onlyTheNamedInstructionsWriteEachRegister : Obligations.OnlyTheNamedInstructionsWriteEachRegister := by
  intro i s t h
  have w := writesOnlyNamed_of_exec h
  have listed {ops : List Byte} (hc : ops.contains (opcode i) = true) : opcode i ∈ ops := List.contains_iff_mem.mp hc
  refine ⟨fun hnz (hmem : opcode i ∈ nzKeepingOpcodes) => ?_, fun hd => listed (w.named .d hd),
    fun hi => listed (w.named .i hi), fun hv => listed (w.named .v hv), fun hc => listed (w.named .c hc),
    fun hs => listed (w.named .sp hs), fun hx => listed (w.named .x hx), fun hy => listed (w.named .y hy),
    fun ha => listed (w.named .a ha)⟩
  have notListed : (!nzKeepingOpcodes.contains (opcode i)) = true :=
    w.named .nz fun ⟨hn, hz⟩ => hnz.elim (· hn) (· hz)
  rw [List.contains_iff_mem.mpr hmem] at notListed
  cases notListed

/-! ## The edges during an instruction -/

/-- Only a BRK uses up an NMI edge that comes during it (60_exceptions.md R232). -/
theorem exec_keeps_nmi {i : Instr} {s t : State} (hi : i ≠ .brk) (h : exec i s = .next t) :
    t.nmiPending = s.nmiPending ∧ t.env.now = s.env.now :=
  (writesOnlyNamed_of_exec h .nmi).resolve_right fun hb => hi (of_decide_eq_true hb)

/-- A BRK with an NMI edge during it leaves none, neither pending nor in the sample. -/
theorem takeTrap_nmi_of_edge {b : Bool} {ret : Word} {s : State} (h : s.nmiEdgeDuring = true) :
    (takeTrap b ret s).nmiPending = false ∧ (takeTrap b ret s).env.now.nmiDuring = false := by
  have e : takeTrap b ret s = loadVector nmiVector (useUpNmi (stackTrap b ret s)) := by
    rw [takeTrap_eq]; exact if_pos h
  have r := loadVector_readsOnly nmiVector (useUpNmi (stackTrap b ret s))
  rw [e]
  exact ⟨r.nmiPending, congrArg Sample.nmiDuring r.now⟩

/-- What is pending at the boundary after an instruction: an edge that came during it, unless a BRK has used it up. -/
theorem nmi_after_exec {i : Instr} {s t : State} (hs : s.nmiPending = false) (h : exec i s = .next t) :
    (t.nmiPending || (s.env.now.nmiDuring && t.env.now.nmiDuring && hasNmi t.cfg.member)) =
      (s.nmiEdgeDuring && decide (i ≠ .brk)) := by
  have k := keeps_of_exec h
  have hp : t.nmiPending = false := Bool.eq_false_iff.mpr fun e => Bool.false_ne_true (hs.symm.trans (k.nmi e))
  rw [hp, k.cfg, Bool.false_or]
  by_cases hi : i = .brk
  · subst hi
    cases he : s.nmiEdgeDuring with
    | true =>
      cases h
      rw [(takeTrap_nmi_of_edge he).2]; simp
    | false =>
      simp only [State.nmiEdgeDuring, Bool.and_eq_false_iff] at he
      rcases he with he | he <;> simp [he]
  · rw [(exec_keeps_nmi hi h).2, Bool.and_self, Bool.and_comm, decide_eq_true hi, Bool.and_true]; rfl

/-- A fetch leaves the latch, the sample and the platform alone. -/
theorem fetch_keeps_nmi {s w : State} {i : Instr} (h : fetch s = .ok (i, w)) :
    w.nmiPending = s.nmiPending ∧ w.env.now = s.env.now ∧ w.cfg = s.cfg := by
  obtain ⟨_, _, _, _, u, -, -, -, r, -, rfl⟩ := fetch_ok h
  exact ⟨r.nmiPending, r.now, r.cfg⟩

/-- A step that runs an instruction leaves what the instruction leaves, and the two edges during it. -/
theorem step_instruction_edges {s w : State} {i : Instr} (h : recognise s.sampled = .instruction)
    (hr : s.sampled.env.now.resDuring = none) (hf : fetch s.sampled = .ok (i, w)) :
    ∃ v t, exec i (w.setOldI none) = .next v ∧ step s = .next t ∧ t.mem = v.mem ∧ t.env = v.env ∧
      t.cpu = { v.cpu with
        p := s.sampled.withSoDuring v.p, nmiPending := s.sampled.nmiEdgeDuring && decide (i ≠ .brk) } := by
  obtain ⟨v, hv, k⟩ := exec_keeps i (w.setOldI none)
  obtain ⟨hp, hnow, hcfg⟩ := fetch_keeps_nmi hf
  have hedge : (w.setOldI none).nmiEdgeDuring = s.sampled.nmiEdgeDuring := by
    simp only [State.nmiEdgeDuring, State.setOldI_cfg, State.setOldI_env, hnow, hcfg]
  have hn := nmi_after_exec (s := w.setOldI none) (hp.trans (nmiPending_of_recognise_instruction h)) hv
  rw [hedge, State.setOldI_env, hnow] at hn
  have hv_cfg : v.cfg = s.sampled.cfg := k.cfg.trans hcfg
  refine ⟨v, _, hv, step_instruction h hf hv, ?_⟩
  rw [afterStep_of_noRes hr, hn, hv_cfg]
  exact ⟨rfl, rfl, rfl⟩

/-- Settles O59: the edges of the sample at the boundary, and those during the step. -/
theorem edgesSetOnlyTheirBit : Obligations.EdgesSetOnlyTheirBit :=
  ⟨fun s _ _ h => ⟨sampled_mem s, sampled_cpu_of_samples h⟩, fun _ _ _ => step_instruction_edges⟩

end Sys2Proof.Machine
end

section
/-! PROOFS. The bus and the platform behind it (20_memory.md R51, R54, R57): what a read after a write returns, which
addresses reach the same byte, what a device sees, and the cycles of an operand's read and of a read-modify-write (R58). -/

namespace Sys2Proof.Machine

/-! ## A write to memory -/

/-- What is written to RAM is read back at every address that agrees with it on the pins. -/
theorem memRead_memWrite_of_busAddr_eq {s : State} {a b : Word} (v : Byte) (hd : s.NoDma) (hr : s.IsRam a)
    (h : busAddr s.cfg.member b = busAddr s.cfg.member a) : (memRead b (memWrite a v s)).1 = v := by
  have hkind : s.kindOf b = s.kindOf a := by rw [State.kindOf, h]; rfl
  have hmem : (memWrite a v s).IsMemory b := (memWrite_sameCpu a v s).isMemory.mpr (.inl (hkind.trans hr))
  rw [memRead_memory (memWrite_noDma hd) hmem, memWrite_peek, if_pos ⟨h, hr⟩]

/-- A write outside RAM changes no byte. -/
theorem memWrite_peek_of_not_ram {s : State} {addr : Word} (v : Byte) (h : ¬ s.IsRam addr) (b : Word) :
    (memWrite addr v s).peek b = s.peek b := by
  rw [memWrite_peek, if_neg fun hb => h hb.2]

/-- Settles O13, a clause for each lemma about a write. -/
theorem ramReturnsTheLastByteWritten : Obligations.RamReturnsTheLastByteWritten := fun _ _ v =>
  ⟨fun hd hr => memRead_memWrite_of_busAddr_eq v hd hr rfl, fun _ => memWrite_peek_other, memWrite_peek_of_not_ram v⟩

/-! ## The address pins -/

/-- The byte a read returns, and all it does, depend on the bus address alone. -/
theorem memRead_congr {s : State} {a b : Word} (h : busAddr s.cfg.member a = busAddr s.cfg.member b) :
    memRead a s = memRead b s := by
  have hbus : busAddr (dmaCycle s).cfg.member a = busAddr (dmaCycle s).cfg.member b := by
    rwa [(dmaCycle_sameCpu s).cfg]
  simp only [memRead, busRead, State.busByte, State.kindOf, State.peek, hbus]

/-- What a write does depends on the bus address alone. -/
theorem memWrite_congr {s : State} {a b : Word} (v : Byte) (h : busAddr s.cfg.member a = busAddr s.cfg.member b) :
    memWrite a v s = memWrite b v s := by
  simp only [memWrite, h]

/-- Settles O14: the pins show the low bits, and both accesses go by what the pins show. -/
theorem addressesThatAgreeOnThePinsReachTheSameByte : Obligations.AddressesThatAgreeOnThePinsReachTheSameByte :=
  fun s _ _ v => ⟨addressPins_cases s.cfg.member, rfl, fun h =>
    ⟨memRead_congr h, memWrite_congr v h, fun hd hr => memRead_memWrite_of_busAddr_eq v hd hr h.symm⟩⟩

/-! ## Devices -/

/-- All that a read cycle of a device does, with no DMA master and a byte waiting: it takes the byte, and the device sees
the cycle (20_memory.md R57). -/
theorem busRead_device_eq {s : State} {addr : Word} {v : Byte} {later : List Byte} (opcode : Bool) (hd : s.NoDma)
    (hk : s.kindOf addr = .device) (hin : s.env.deviceIn = v :: later) :
    busRead opcode addr s = (v, s.setEnv ({ s.env with deviceIn := later }.record
      { addr := busAddr s.cfg.member addr, write := false, data := v, sync := opcode && hasSync s.cfg.member })) := by
  have hbyte : s.busByte addr = v := by simp only [State.busByte, hk, hin, List.headD_cons]
  have henv : s.env.afterRead (s.kindOf addr) = { s.env with deviceIn := later } := by
    simp only [hk, Env.afterRead, hin]
  simp only [busRead, dmaCycle_of_noDma hd, hbyte, henv]

/-- Settles O15. -/
theorem deviceReadsTakeTheEnvironmentsBytes : Obligations.DeviceReadsTakeTheEnvironmentsBytes :=
  fun _ _ _ _ => busRead_device_eq false

/-! ## The operand of a read -/

/-- Reading an operand makes one read cycle at its effective address, after those that find it. -/
theorem readOperand_trace (m : MemOperand) (s : State) :
    (readOperand m s).2.env.trace = (effectiveAddr .load m s).2.env.trace ++
      [readCycle s (effectiveAddr .load m s).1 (readOperand m s).1] := by
  rw [← (effectiveAddr_readsOnly .load m s).toSameCpu.readCycle]
  exact memRead_trace _ _

/-- An operand read from memory is the byte memory holds at its effective address. -/
theorem readOperand_memory {m : MemOperand} {s : State} (hd : s.NoDma) (hm : s.IsMemory (effectiveAddr .load m s).1) :
    (readOperand m s).1 = s.peek (effectiveAddr .load m s).1 := by
  have h := effectiveAddr_readsOnly .load m s
  exact (memRead_memory (h.noDma hd) (h.toSameCpu.isMemory.mpr hm)).trans (h.peek hd _)

/-- Settles O18. -/
theorem operandReadIsTheByteAtTheEffectiveAddress : Obligations.OperandReadIsTheByteAtTheEffectiveAddress := fun s m =>
  ⟨readOperand_cpu m s, (readOperand_readsOnly m s).peek, readOperand_trace m s, readOperand_memory⟩

/-! ## Read-modify-write -/

/-- The result of ASL as a number (43_logic_shift.md R164). -/
theorem shiftLeft_result (p : Flags) (v : Byte) : (shiftLeft v p).1 = BitVec.ofNat 8 (v.toNat * 2 % 256) := by
  apply BitVec.eq_of_toNat_eq
  rw [shiftLeft, BitVec.toNat_shiftLeft, Nat.shiftLeft_eq, BitVec.toNat_ofNat]
  omega

/-- The result of LSR as a number (43_logic_shift.md R165). -/
theorem shiftRight_result (p : Flags) (v : Byte) : (shiftRight v p).1 = BitVec.ofNat 8 (v.toNat / 2) := by
  have := v.isLt
  apply BitVec.eq_of_toNat_eq
  rw [shiftRight, BitVec.toNat_ushiftRight, Nat.shiftRight_eq_div_pow, BitVec.toNat_ofNat]
  omega

/-- The result of ROL as a number: the old C comes in at bit 0 (43_logic_shift.md R166). -/
theorem rotateLeft_result (p : Flags) (v : Byte) :
    (rotateLeft v p).1 = BitVec.ofNat 8 (v.toNat * 2 % 256 + p.c.toNat) := by
  have hlow : (BitVec.ofBool p.c).toNat < 2 ^ 1 := (BitVec.ofBool p.c).isLt
  have hor := Nat.shiftLeft_add_eq_or_of_lt hlow (v.extractLsb' 0 7).toNat
  have hc := p.c.toNat_lt
  apply BitVec.eq_of_toNat_eq
  rw [rotateLeft, BitVec.toNat_append, ← hor, Nat.shiftLeft_eq, BitVec.extractLsb'_toNat, BitVec.toNat_ofBool,
    BitVec.toNat_ofNat]
  omega

/-- The result of ROR as a number: the old C comes in at bit 7 (43_logic_shift.md R167). -/
theorem rotateRight_result (p : Flags) (v : Byte) :
    (rotateRight v p).1 = BitVec.ofNat 8 (p.c.toNat * 128 + v.toNat / 2) := by
  have hor := Nat.shiftLeft_add_eq_or_of_lt (v.extractLsb' 1 7).isLt (BitVec.ofBool p.c).toNat
  have hc := p.c.toNat_lt
  have := v.isLt
  apply BitVec.eq_of_toNat_eq
  rw [rotateRight, BitVec.toNat_append, ← hor, Nat.shiftLeft_eq, BitVec.extractLsb'_toNat, BitVec.toNat_ofBool,
    BitVec.toNat_ofNat, Nat.shiftRight_eq_div_pow]
  omega

/-- An instruction that is a read-modify-write leaves its result in RAM, and makes its three cycles whatever is at the
address (20_memory.md R58 c). -/
theorem exec_modify_cycles {i : Instr} {s : State} {m : MemOperand} {f : Byte → Flags → Byte × Flags}
    {result : Byte → Byte} (hf : ∀ v, (f v s.p).1 = result v) (h : exec i s = .next (modifyOperand m f s)) :
    let ea := effectiveAddr .modify m s
    let old := (memRead ea.1 ea.2).1
    ∃ t, exec i s = .next t ∧ (s.IsRam ea.1 → t.peek ea.1 = result old) ∧
      t.env.trace = ea.2.env.trace ++ [readCycle s ea.1 old, writeCycle s ea.1 old, writeCycle s ea.1 (result old)] := by
  refine ⟨_, h, fun hr => ?_, ?_⟩
  · rw [modifyOperand_peek, if_pos ⟨rfl, hr⟩, hf]
  · rw [modifyOperand_trace, hf]

/-- Settles O38: the four modes of each of the six operations, whose meanings are all `modifyOperand`. -/
theorem readModifyWriteWritesTheOldByteFirst : Obligations.ReadModifyWriteWritesTheOldByteFirst := by
  intro s b w cyclesOf asl lsr rol ror inc dec
  have aslCycles {i m} : exec i s = .next (modifyOperand m shiftLeft s) → cyclesOf i m asl :=
    exec_modify_cycles (shiftLeft_result s.p)
  have lsrCycles {i m} : exec i s = .next (modifyOperand m shiftRight s) → cyclesOf i m lsr :=
    exec_modify_cycles (shiftRight_result s.p)
  have rolCycles {i m} : exec i s = .next (modifyOperand m rotateLeft s) → cyclesOf i m rol :=
    exec_modify_cycles (rotateLeft_result s.p)
  have rorCycles {i m} : exec i s = .next (modifyOperand m rotateRight s) → cyclesOf i m ror :=
    exec_modify_cycles (rotateRight_result s.p)
  have incCycles {i m} : exec i s = .next (modifyOperand m increment s) → cyclesOf i m inc :=
    exec_modify_cycles fun _ => rfl
  have decCycles {i m} : exec i s = .next (modifyOperand m decrement s) → cyclesOf i m dec :=
    exec_modify_cycles fun _ => rfl
  exact ⟨aslCycles rfl, aslCycles rfl, aslCycles rfl, aslCycles rfl,
    lsrCycles rfl, lsrCycles rfl, lsrCycles rfl, lsrCycles rfl,
    rolCycles rfl, rolCycles rfl, rolCycles rfl, rolCycles rfl,
    rorCycles rfl, rorCycles rfl, rorCycles rfl, rorCycles rfl,
    incCycles rfl, incCycles rfl, incCycles rfl, incCycles rfl,
    decCycles rfl, decCycles rfl, decCycles rfl, decCycles rfl⟩

end Sys2Proof.Machine
end

section
/-! PROOFS. Every step keeps the invariant: memory canonical and within the address pins (20_memory.md R51), and an NMI
pending only on a member with the pin (00_scope.md R5, 10_state.md R34). -/

namespace Sys2Proof.Machine

/-- The invariant as `Keeps` speaks of it: memory on the one hand, the NMI latch on the other. -/
theorem inv_iff (s : State) : s.Inv ↔ s.MemOk ∧ (s.nmiPending = true → hasNmi s.cfg.member = true) :=
  and_assoc.symm

/-- An operation that latches no NMI edge keeps the invariant. -/
theorem Keeps.inv {s t : State} (k : Keeps s t) (h : s.Inv) : t.Inv := by
  obtain ⟨hmem, hnmi⟩ := (inv_iff s).mp h
  exact (inv_iff t).mpr ⟨k.mem hmem, fun hn => by rw [k.cfg]; exact hnmi (k.nmi hn)⟩

/-- A latch that takes an edge only on a member with the NMI pin keeps the invariant, whatever becomes of the flags. -/
theorem inv_latch {s t : State} {edge : Bool} (h : s.Inv) (hm : t.mem = s.mem) (hc : t.cfg = s.cfg)
    (hn : t.nmiPending = (s.nmiPending || (hasNmi s.cfg.member && edge))) : t.Inv := by
  obtain ⟨hwf, hbelow, hnmi⟩ := h
  refine ⟨by rwa [hm], by rwa [hm, hc], fun hp => ?_⟩
  rw [hn, Bool.or_eq_true, Bool.and_eq_true] at hp
  rw [hc]
  exact hp.elim hnmi And.left

/-- The sample of the pins keeps the invariant. -/
theorem inv_sampled {s : State} (h : s.Inv) : s.sampled.Inv :=
  inv_latch h (sampled_mem s) (sampled_cfg s) (sampled_nmiPending s)

/-- No bus cycle stands in the trace when a step starts. -/
theorem traceOk_sampled (s : State) : s.sampled.TraceOk := by
  intro c hc
  rw [sampled_trace] at hc
  cases hc

/-- The edges inside a step keep the invariant: NMI is latched on a member with the pin only, and where RES cuts the step
off, what memory becomes is the work of the step's own cycles, all at bus addresses. -/
theorem inv_afterStep {s t : State} (hs : s.Inv) (htrace : s.TraceOk) (k : Keeps s t) : (afterStep s t).Inv := by
  cases hr : s.env.now.resDuring with
  | none =>
    rw [afterStep_of_noRes hr]
    exact inv_latch (k.inv hs) rfl rfl (by rw [Bool.and_comm (hasNmi t.cfg.member)]; rfl)
  | some r =>
    have haddr : ∀ c ∈ t.env.trace, c.addr < 2 ^ addressPins s.cfg.member := k.cfg ▸ k.trace htrace
    rw [afterStep_of_res hr]
    exact (keeps_cutOffByRes hr haddr).inv hs

/-- All that a step can do, as far as the invariant goes: after the sample an operation that keeps it, and then the edges
inside the step, unless the processor is held in reset. -/
theorem step_keeps {s t : State} (h : step s = .next t) :
    ∃ v, Keeps s.sampled v ∧ (t = v ∨ t = afterStep s.sampled v) := by
  rcases step_cases h with ⟨_, e⟩ | ⟨_, e⟩ | ⟨_, e⟩ | ⟨_, e⟩ | ⟨_, e⟩ | ⟨_, i, u, v, hf, he, e⟩
  · exact ⟨_, keeps_holdInReset _, .inl e⟩
  · exact ⟨_, keeps_resetSequence _, .inr e⟩
  · exact ⟨_, .refl _, .inr e⟩
  · exact ⟨_, keeps_nmiSequence _, .inr e⟩
  · exact ⟨_, keeps_irqSequence _, .inr e⟩
  · exact ⟨v, (keeps_of_fetch hf).trans ((keeps_setOldI _ _).trans (keeps_of_exec he)), .inr e⟩

/-- Settles O9: the sample, what the step performs and the edges inside it each keep the invariant. -/
theorem stepKeepsTheInvariant : Obligations.StepKeepsTheInvariant := by
  intro s t hs h
  have hsampled := inv_sampled hs
  obtain ⟨v, k, rfl | rfl⟩ := step_keeps h
  · exact k.inv hsampled
  · exact inv_afterStep hsampled (traceOk_sampled s) k

end Sys2Proof.Machine
end

section
/-! PROOFS. The encoding (30_encoding.md R80 to R85): decode and encode are inverse, and the bytes outside the opcode
matrix are the undefined ones. -/

namespace Sys2Proof.Machine

/-- The halves of a word, put together again (00_scope.md R9). -/
@[simp] theorem joinBytes_hiByte_loByte (w : Word) : joinBytes (hiByte w) (loByte w) = w :=
  BitVec.extractLsb'_append_extractLsb'_eq_extractLsb' (x := w) rfl |>.trans BitVec.extractLsb'_eq_self

end Sys2Proof.Machine

namespace Sys2Proof

open Machine

/-! ## Decoding the words of an instruction -/

/-- Where an opcode takes a 16-bit operand, the low byte of a word and then its high byte are that operand (R82). -/
theorem decode_loByte_hiByte {b0 : Byte} {f : Word → Instr}
    (h : ∀ b1 b2, decode b0 b1 b2 = .ok (f (joinBytes b2 b1))) (w : Word) : decode b0 (loByte w) (hiByte w) = .ok (f w) := by
  rw [h, joinBytes_hiByte_loByte]

/-- The opcode and the operand bytes of an instruction decode to it, whatever follows them. The cases are the three
lengths of R81: no operand byte, one, and the two halves of a word. -/
theorem decode_opcode_operandBytes (i : Instr) (rest : List Byte) :
    decode (opcode i) ((operandBytes i ++ rest).getD 0 0) ((operandBytes i ++ rest).getD 1 0) = .ok i := by
  cases i with
  | tax | tay | txa | tya | tsx | txs | inx | iny | dex | dey | aslAcc | lsrAcc | rolAcc | rorAcc | rts | pha | php
  | pla | plp | clc | sec | cli | sei | cld | sed | clv | nop | brk | rti => rfl
  | ldaIndX | ldaZp | ldaImm | ldaIndY | ldaZpX | ldxImm | ldxZp | ldxZpY | ldyImm | ldyZp | ldyZpX | staIndX
  | staZp | staIndY | staZpX | stxZp | stxZpY | styZp | styZpX | adcIndX | adcZp | adcImm | adcIndY | adcZpX
  | sbcIndX | sbcZp | sbcImm | sbcIndY | sbcZpX | cmpIndX | cmpZp | cmpImm | cmpIndY | cmpZpX | cpxImm | cpxZp
  | cpyImm | cpyZp | incZp | incZpX | decZp | decZpX | andIndX | andZp | andImm | andIndY | andZpX | oraIndX | oraZp
  | oraImm | oraIndY | oraZpX | eorIndX | eorZp | eorImm | eorIndY | eorZpX | bitZp | aslZp | aslZpX | lsrZp
  | lsrZpX | rolZp | rolZpX | rorZp | rorZpX | bcc | bcs | beq | bne | bmi | bpl | bvc | bvs =>
    dsimp only [opcode]; rfl
  | ldaAbs w | ldaAbsY w | ldaAbsX w | ldxAbs w | ldxAbsY w | ldyAbs w | ldyAbsX w | staAbs w | staAbsY w
  | staAbsX w | stxAbs w | styAbs w | adcAbs w | adcAbsY w | adcAbsX w | sbcAbs w | sbcAbsY w | sbcAbsX w | cmpAbs w
  | cmpAbsY w | cmpAbsX w | cpxAbs w | cpyAbs w | incAbs w | incAbsX w | decAbs w | decAbsX w | andAbs w | andAbsY w
  | andAbsX w | oraAbs w | oraAbsY w | oraAbsX w | eorAbs w | eorAbsY w | eorAbsX w | bitAbs w | aslAbs w
  | aslAbsX w | lsrAbs w | lsrAbsX w | rolAbs w | rolAbsX w | rorAbs w | rorAbsX w | jmpAbs w | jmpInd w
  | jsr w =>
    dsimp only [opcode]; exact decode_loByte_hiByte (fun _ _ => rfl) w

/-- What `decodeBytes` answers once byte 0 and the two bytes after it are decoded. -/
theorem decodeBytes_of_decode {b0 : Byte} {tail : List Byte} {i : Instr}
    (h : decode b0 (tail.getD 0 0) (tail.getD 1 0) = .ok i) :
    decodeBytes (b0 :: tail) = if tail.length < (operandBytes i).length then .error .tooFewBytes
      else .ok (i, tail.drop (operandBytes i).length) := by
  simp only [decodeBytes, h]

/-- Settles O1: the opcode and the operand bytes decode to the instruction, and dropping the operand bytes leaves what
follows. -/
theorem decodeReadsBackEveryEncodedInstruction : Obligations.DecodeReadsBackEveryEncodedInstruction := by
  intro i rest
  have enough : ¬ (operandBytes i ++ rest).length < (operandBytes i).length := by
    rw [List.length_append]; omega
  calc decodeBytes (encode i ++ rest)
    _ = .ok (i, (operandBytes i ++ rest).drop (operandBytes i).length) := by
      rw [encode, List.cons_append, decodeBytes_of_decode (decode_opcode_operandBytes i rest), if_neg enough]
    _ = .ok (i, rest) := by rw [List.drop_left]

/-- Settles O4: one instruction of each format, decoded from its own words. -/
theorem sampleWordsDecodeToTheirInstructions : Obligations.SampleWordsDecodeToTheirInstructions :=
  have words (i : Instr) := decode_opcode_operandBytes i []
  ⟨words .nop, words .aslAcc, words (.ldaImm 0x10), words (.ldaZp 0x10), words (.ldaZpX 0x10), words (.ldxZpY 0x10),
    words (.ldaAbs 0x1234), words (.ldaAbsX 0x1234), words (.ldaAbsY 0x1234), words (.bne 0xFE), words (.ldaIndX 0x10),
    words (.ldaIndY 0x10), words (.jmpInd 0x1234)⟩

/-! ## The opcode matrix and the list of undefined opcodes -/

/-- All bytes in ascending order. -/
def allBytes : List Byte := (List.finRange 256).map BitVec.ofFin

theorem mem_allBytes (b : Byte) : b ∈ allBytes := List.mem_map.mpr ⟨b.toFin, List.mem_finRange _, rfl⟩

theorem nodup_allBytes : allBytes.Nodup :=
  (List.nodup_finRange 256).map fun _ _ h => congrArg BitVec.toFin h

/-- The list of R85, in its order, is what the matrix of R84 leaves out. -/
theorem undefinedOpcodes_eq_filter : undefinedOpcodes = allBytes.filter fun b => (opcodeLength b).isNone := by
  decide

theorem nodup_undefinedOpcodes : undefinedOpcodes.Nodup := by
  rw [undefinedOpcodes_eq_filter]; exact nodup_allBytes.filter _

theorem opcodeLength_eq_none_iff (b0 : Byte) : opcodeLength b0 = none ↔ b0 ∈ undefinedOpcodes := by
  rw [undefinedOpcodes_eq_filter, List.mem_filter, Option.isNone_iff_eq_none]
  exact (and_iff_right (mem_allBytes b0)).symm

/-- The decoder's matrix (R84) gives each defined opcode the length of its format (R81), byte 0 by byte 0. -/
theorem formatLength_of_opcodeLength : ∀ b0 : Byte, ∀ n ∈ opcodeLength b0, formatLength b0 = n := by
  decide

/-- The decoder refuses a byte 0, by its name, where no instruction starts with it. -/
theorem decode_eq_error_iff (b0 b1 b2 : Byte) :
    decode b0 b1 b2 = .error (.undefinedOpcode b0) ↔ opcodeLength b0 = none := by
  constructor
  · intro h
    cases hl : opcodeLength b0 with
    | none => rfl
    | some n =>
      obtain ⟨i, hi⟩ := decode_of_length hl b1 b2
      cases h.symm.trans hi
  · intro h
    cases hm : decodeMatrix b0 b1 b2 with
    | none => rw [decode, hm]
    | some i =>
      have hd : decode b0 b1 b2 = .ok i := by rw [decode, hm]
      obtain ⟨-, -, hl, -⟩ := decode_spec hd
      cases h.symm.trans hl

/-- Settles O3: the list is counted, and the decoder refuses where the opcode has no length. -/
theorem decoderRefusesExactlyTheUndefinedOpcodes : Obligations.DecoderRefusesExactlyTheUndefinedOpcodes :=
  have count : undefinedOpcodes.length = 105 := rfl
  ⟨count, nodup_undefinedOpcodes, fun b0 b1 b2 => (decode_eq_error_iff b0 b1 b2).trans (opcodeLength_eq_none_iff b0)⟩

/-! ## What was decoded is the words of the instruction -/

/-- The two bytes `decodeBytes` shows the decoder after byte 0 stand for the bytes there are: it fills up with 0 only
beyond them. -/
theorem take_getD_eq_take {tail : List Byte} {n : Nat} (hn : n ≤ tail.length) (h2 : n ≤ 2) :
    [tail.getD 0 0, tail.getD 1 0].take n = tail.take n := by
  match n, tail with
  | 0, _ => rfl
  | 1, [_] => rfl
  | 1, _ :: _ :: _ => rfl
  | 2, _ :: _ :: _ => rfl

/-- The words of an instruction are well formed if its opcode has the instruction's length (R81, R84, R85). -/
theorem wellFormedBytes_encode {i : Instr} (h : opcodeLength (opcode i) = some (instrLength i)) :
    wellFormedBytes (encode i) = true := by
  have defined : opcode i ∉ undefinedOpcodes := fun hu => by
    rw [(opcodeLength_eq_none_iff _).mpr hu] at h; cases h
  have length : formatLength (opcode i) = instrLength i := formatLength_of_opcodeLength _ _ h
  simp [encode, wellFormedBytes, defined, length, instrLength, Nat.add_comm]

/-- All that `decodeBytes` can have done where it answers an instruction. -/
theorem decodeBytes_ok {bytes rest : List Byte} {i : Instr} (h : decodeBytes bytes = .ok (i, rest)) :
    ∃ b0 tail, bytes = b0 :: tail ∧ decode b0 (tail.getD 0 0) (tail.getD 1 0) = .ok i ∧
      (operandBytes i).length ≤ tail.length ∧ rest = tail.drop (operandBytes i).length := by
  cases bytes with
  | nil => cases h
  | cons b0 tail =>
    cases hd : decode b0 (tail.getD 0 0) (tail.getD 1 0) with
    | error e => simp only [decodeBytes, hd] at h; cases h
    | ok j =>
      rw [decodeBytes_of_decode hd] at h
      split at h
      · cases h
      · next hlen =>
        cases h
        exact ⟨b0, tail, rfl, hd, Nat.le_of_not_lt hlen, rfl⟩

/-- Settles O2: the opcode is byte 0, and the operand bytes are as many of the bytes after it as the format has
(`decode_spec`). -/
theorem decodedBytesAreTheWordsOfTheInstruction : Obligations.DecodedBytesAreTheWordsOfTheInstruction := by
  intro bytes rest i h
  obtain ⟨b0, tail, rfl, hd, hlen, rfl⟩ := decodeBytes_ok h
  obtain ⟨hop, hbytes, hl, -⟩ := decode_spec hd
  rw [instrLength, Nat.add_sub_cancel_left] at hbytes
  have two : (operandBytes i).length ≤ 2 := by
    rw [hbytes]
    exact List.length_take_le' _ _
  have operand : operandBytes i = tail.take (operandBytes i).length := hbytes.trans (take_getD_eq_take hlen two)
  refine ⟨?_, wellFormedBytes_encode (by rw [hop, hl])⟩
  calc b0 :: tail
    _ = b0 :: (tail.take (operandBytes i).length ++ tail.drop (operandBytes i).length) := by rw [List.take_append_drop]
    _ = encode i ++ tail.drop (operandBytes i).length := by rw [← operand, encode, hop, List.cons_append]

end Sys2Proof

namespace Sys2Proof.Machine

/-! ## The step that meets an undefined opcode -/

/-- A fetch stops at the byte at PC where no instruction starts with it. -/
theorem fetch_of_no_length {s : State} (h : opcodeLength (busRead true s.pc s).1 = none) :
    fetch s = .error (.undefinedOpcode (busRead true s.pc s).1) := by
  simp only [fetch, h]

/-- Settles O6: the byte fetched has no length, so that the fetch and with it the step stops there. -/
theorem stepRefusesAnUndefinedOpcode : Obligations.StepRefusesAnUndefinedOpcode := by
  intro s hb hmem
  exact step_undefined hb (fetch_of_no_length ((opcodeLength_eq_none_iff _).mpr hmem))

end Sys2Proof.Machine
end

section
/-! PROOFS. The addressing modes as sums of numbers (40_addressing_modes.md R103 to R111): which additions wrap in page
zero, and which at $FFFF. -/

namespace Sys2Proof.Machine

/-! ## Additions that wrap -/

/-- The sum of two bytes as an address wraps within page zero (R104, R105). -/
theorem zext16_add_toNat (b index : Byte) : (zext16 (b + index)).toNat = (b.toNat + index.toNat) % 256 := by
  rw [zext16_toNat, BitVec.toNat_add]

/-- The index addition wraps at $FFFF, whatever the instruction does at its operand (R107, R108, R111). -/
theorem indexedAddr_toNat (acc : Access) (base : Word) (index : Byte) (s : State) :
    (indexedAddr acc base index s).1.toNat = (base.toNat + index.toNat) % 65536 := by
  rw [indexedAddr_fst, BitVec.toNat_add, zext16_toNat]

/-! ## The pointers in page zero -/

/-- A byte that is a number modulo 256 names the address in page zero with that number. -/
theorem zext16_eq_ofNat {p : Byte} {n : Nat} (h : p.toNat = n % 256) : zext16 p = BitVec.ofNat 16 (n % 256) := by
  rw [← h, zext16, BitVec.ofNat_toNat]

/-- The pointer as a number: both its bytes come from page zero, the high one from the next address modulo 256 (R110,
R111). -/
theorem zeroPagePointer_toNat {p : Byte} {n : Nat} {s : State} (hd : s.NoDma) (hm : ∀ k : Byte, s.IsMemory (zext16 k))
    (hp : p.toNat = n % 256) :
    (zeroPagePointer p s).1.toNat =
      256 * (s.peek (BitVec.ofNat 16 ((n + 1) % 256))).toNat + (s.peek (BitVec.ofNat 16 (n % 256))).toNat := by
  have next : (p + 1).toNat = (n + 1) % 256 := by rw [BitVec.toNat_add, hp]; exact Nat.mod_add_mod n 256 1
  rw [zeroPagePointer_memory hd hm, joinBytes_toNat, zext16_eq_ofNat hp, zext16_eq_ofNat next]

/-- The effective address of (zero page,X): the pointer at the sum modulo 256 (R110). The discarded read at the byte
before the addition moves nothing. -/
theorem effectiveAddr_indX_toNat {s : State} (acc : Access) (b : Byte) (hd : s.NoDma)
    (hm : ∀ k : Byte, s.IsMemory (zext16 k)) :
    (effectiveAddr acc (.indX b) s).1.toNat =
      256 * (s.peek (BitVec.ofNat 16 ((b.toNat + s.x.toNat + 1) % 256))).toNat +
        (s.peek (BitVec.ofNat 16 ((b.toNat + s.x.toNat) % 256))).toNat := by
  have h := discardRead_readsOnly (zext16 b) s
  simp only [effectiveAddr, zeroPagePointer_toNat (h.noDma hd) (fun k => h.isMemory.mpr (hm k)) (BitVec.toNat_add b s.x),
    h.peek hd]

/-- The effective address of (zero page),Y: what the pointer holds, plus Y modulo 65536 (R111). -/
theorem effectiveAddr_indY_toNat {s : State} (acc : Access) (b : Byte) (hd : s.NoDma)
    (hm : ∀ k : Byte, s.IsMemory (zext16 k)) :
    (effectiveAddr acc (.indY b) s).1.toNat =
      (256 * (s.peek (BitVec.ofNat 16 ((b.toNat + 1) % 256))).toNat +
        (s.peek (BitVec.ofNat 16 (b.toNat % 256))).toNat + s.y.toNat) % 65536 := by
  have hb : b.toNat = b.toNat % 256 := (Nat.mod_eq_of_lt b.isLt).symm
  simp only [effectiveAddr, indexedAddr_toNat, zeroPagePointer_toNat hd hm hb]

/-! ## The modes -/

/-- Finding an operand moves nothing but the bus, so that of a mode only the address is to be shown (R113). -/
theorem effectiveAddr_finds {acc : Access} {m : MemOperand} {s : State} {n : Nat}
    (h : (effectiveAddr acc m s).1.toNat = n) :
    (effectiveAddr acc m s).1.toNat = n ∧ (effectiveAddr acc m s).2.cpu = s.cpu ∧
      MemoryKept s (effectiveAddr acc m s).2 :=
  have reads := effectiveAddr_readsOnly acc m s
  ⟨h, reads.cpu, reads.peek⟩

/-- Settles O16: the modes of page zero wrap with the byte, the absolute ones with the word. -/
theorem effectiveAddressesWrapAsTheSpecSays : Obligations.EffectiveAddressesWrapAsTheSpecSays := fun s acc b w =>
  ⟨effectiveAddr_finds (zext16_toNat b), effectiveAddr_finds (zext16_add_toNat b s.x),
    effectiveAddr_finds (zext16_add_toNat b s.y), effectiveAddr_finds rfl,
    effectiveAddr_finds (indexedAddr_toNat acc w s.x s), effectiveAddr_finds (indexedAddr_toNat acc w s.y s)⟩

/-- Settles O17, a clause for each mode that goes through a pointer. -/
theorem pointersInPageZeroWrapInPageZero : Obligations.PointersInPageZeroWrapInPageZero := fun _ acc b hd hm =>
  ⟨effectiveAddr_finds (effectiveAddr_indX_toNat acc b hd hm), effectiveAddr_finds (effectiveAddr_indY_toNat acc b hd hm)⟩

end Sys2Proof.Machine
end

section
/-! PROOFS. Loads, stores and transfers (41_load_store_transfer.md R120 to R131): the register or the byte each writes,
and that it changes nothing else. -/

namespace Sys2Proof.Machine

/-! ## Instructions that write registers only -/

/-- P after `SetNZ(v)` as a statement about an instruction spells it (00_scope.md R10). -/
theorem setNZ_eq_withNZ (p : Flags) (v : Byte) : p.setNZ v = withNZ p v := setNZ_eq p v

section
variable {i : Instr} {words : List Byte} {s u : State}

/-- An instruction does what its last state shows of the processor, where read cycles lead to a state `u` and what comes
after them leaves memory alone. -/
theorem does_of_readsOnly {t : State} {post : Cpu} (reads : ReadsOnly s u) (hw : encode i = words)
    (he : exec i s = .next t) (hcpu : t.cpu = post) (hmem : ∀ addr, t.peek addr = u.peek addr) : Does i words s post :=
  ⟨hw, t, he, hcpu, fun hd addr => (hmem addr).trans (reads.peek hd addr)⟩

/-- `A <- v; SetNZ(v)` after read cycles, those of the operand or none at all. -/
theorem does_loadA {v : Byte} (reads : ReadsOnly s u) (hw : encode i = words) (he : exec i s = .next (u.loadA v)) :
    Does i words s { s.cpu with a := v, p := withNZ s.p v } :=
  does_of_readsOnly reads hw he (by rw [loadA_cpu, reads.cpu, reads.p, setNZ_eq_withNZ]) (loadA_peek u v)

/-- `X <- v; SetNZ(v)` after read cycles. -/
theorem does_loadX {v : Byte} (reads : ReadsOnly s u) (hw : encode i = words) (he : exec i s = .next (u.loadX v)) :
    Does i words s { s.cpu with x := v, p := withNZ s.p v } :=
  does_of_readsOnly reads hw he (by rw [loadX_cpu, reads.cpu, reads.p, setNZ_eq_withNZ]) (loadX_peek u v)

/-- `Y <- v; SetNZ(v)` after read cycles. -/
theorem does_loadY {v : Byte} (reads : ReadsOnly s u) (hw : encode i = words) (he : exec i s = .next (u.loadY v)) :
    Does i words s { s.cpu with y := v, p := withNZ s.p v } :=
  does_of_readsOnly reads hw he (by rw [loadY_cpu, reads.cpu, reads.p, setNZ_eq_withNZ]) (loadY_peek u v)

end

/-! ## Loads -/

/-- Settles O19: the immediate form makes no read cycle of its own, and the seven others read their operand. -/
theorem ldaLoadsTheOperandIntoA : Obligations.LdaLoadsTheOperandIntoA := by
  intro s b w loads
  have fromMemory {i words m} (hw : encode i = words) (he : exec i s = .next (loadIntoA (readOperand m s))) :
      loads i words (readOperand m s).1 := does_loadA (readOperand_readsOnly m s) hw he
  have immediate : loads (.ldaImm b) [0xA9, b] b := does_loadA (.refl s) rfl rfl
  exact ⟨fromMemory rfl rfl, fromMemory rfl rfl, immediate, fromMemory rfl rfl, fromMemory rfl rfl, fromMemory rfl rfl,
    fromMemory rfl rfl, fromMemory rfl rfl⟩

/-- Settles O20, as O19 for each of the two registers. -/
theorem ldxAndLdyLoadTheirIndexRegister : Obligations.LdxAndLdyLoadTheirIndexRegister := by
  intro s b w loadsX loadsY
  have xFromMemory {i words m} (hw : encode i = words) (he : exec i s = .next (loadIntoX (readOperand m s))) :
      loadsX i words (readOperand m s).1 := does_loadX (readOperand_readsOnly m s) hw he
  have yFromMemory {i words m} (hw : encode i = words) (he : exec i s = .next (loadIntoY (readOperand m s))) :
      loadsY i words (readOperand m s).1 := does_loadY (readOperand_readsOnly m s) hw he
  have xImmediate : loadsX (.ldxImm b) [0xA2, b] b := does_loadX (.refl s) rfl rfl
  have yImmediate : loadsY (.ldyImm b) [0xA0, b] b := does_loadY (.refl s) rfl rfl
  exact ⟨xImmediate, xFromMemory rfl rfl, xFromMemory rfl rfl, xFromMemory rfl rfl, xFromMemory rfl rfl,
    yImmediate, yFromMemory rfl rfl, yFromMemory rfl rfl, yFromMemory rfl rfl, yFromMemory rfl rfl⟩

/-! ## Stores -/

/-- A store to RAM is what memory then holds at the effective address. -/
theorem storeOperand_peek_same {m : MemOperand} {s : State} (v : Byte) (h : s.IsRam (effectiveAddr .modify m s).1) :
    (storeOperand m v s).peek (effectiveAddr .modify m s).1 = v := by
  rw [storeOperand_peek, if_pos ⟨rfl, h⟩]

/-- A byte that a store does not reach, since it is another one or not RAM, is as before. -/
theorem storeOperand_peek_unreached {m : MemOperand} {s : State} (v : Byte) {addr : Word} (hd : s.NoDma)
    (h : ¬ (busAddr s.cfg.member addr = busAddr s.cfg.member (effectiveAddr .modify m s).1 ∧
      s.IsRam (effectiveAddr .modify m s).1)) : (storeOperand m v s).peek addr = s.peek addr :=
  calc (storeOperand m v s).peek addr
    _ = (effectiveAddr .modify m s).2.peek addr := (storeOperand_peek m v s addr).trans (if_neg h)
    _ = s.peek addr := (effectiveAddr_readsOnly .modify m s).peek hd addr

/-- An instruction whose meaning is `storeOperand` stores as the statements say (41_load_store_transfer.md R123 to
R125). -/
theorem stores_of_exec {i : Instr} {words : List Byte} {s : State} {m : MemOperand} {v : Byte}
    (hw : encode i = words) (he : exec i s = .next (storeOperand m v s)) : Stores i words s m v :=
  ⟨hw, _, he, (storeOperand_sameCpu m v s).cpu, storeOperand_trace m v s, storeOperand_peek_same v,
    fun hd notRam => storeOperand_peek_unreached v hd fun h => notRam h.2,
    fun hd _ other => storeOperand_peek_unreached v hd fun h => other h.1⟩

/-- Settles O21, a clause for each mode. -/
theorem staStoresAAtTheEffectiveAddress : Obligations.StaStoresAAtTheEffectiveAddress := fun _ _ _ =>
  ⟨stores_of_exec rfl rfl, stores_of_exec rfl rfl, stores_of_exec rfl rfl, stores_of_exec rfl rfl,
    stores_of_exec rfl rfl, stores_of_exec rfl rfl, stores_of_exec rfl rfl⟩

/-- Settles O22, a clause for each register and mode. -/
theorem stxAndStyStoreTheirIndexRegister : Obligations.StxAndStyStoreTheirIndexRegister := fun _ _ _ =>
  ⟨stores_of_exec rfl rfl, stores_of_exec rfl rfl, stores_of_exec rfl rfl, stores_of_exec rfl rfl,
    stores_of_exec rfl rfl, stores_of_exec rfl rfl⟩

/-! ## Transfers -/

/-- Settles O23: a transfer is a load that makes no read cycle. -/
theorem transfersCopyARegisterAndSetNZ : Obligations.TransfersCopyARegisterAndSetNZ := fun s =>
  have noCycle : ReadsOnly s s := .refl s
  ⟨does_loadX noCycle rfl rfl, does_loadY noCycle rfl rfl, does_loadA noCycle rfl rfl, does_loadA noCycle rfl rfl,
    does_loadX noCycle rfl rfl⟩

/-- Settles O24: TXS sets S alone, and with it no flag. -/
theorem txsSetsTheStackPointerAndNoFlag : Obligations.TxsSetsTheStackPointerAndNoFlag := fun s =>
  does_of_readsOnly (.refl s) rfl rfl (s.setSp_cpu s.x) (s.setSp_peek s.x)

end Sys2Proof.Machine
end

section
/-! PROOFS. Arithmetic, compares, increments and decrements (42_arithmetic.md R140 to R153): what each computes, in
binary and in decimal mode, and that it changes nothing else. -/

namespace Sys2Proof.Machine

/-! ## Binary addition, subtraction, comparison -/

/-- The operand as SBC adds it, as a number (42_arithmetic.md R141). -/
theorem complement_toNat (m : Byte) : (m ^^^ 0xFF#8).toNat = 255 - m.toNat := by
  have h : m ^^^ 0xFF#8 = ~~~m := BitVec.xor_allOnes
  rw [h, BitVec.toNat_not]

/-- R140 as a claim spells it. -/
theorem addBinary_eq (a m : Byte) (p : Flags) :
    let t := a.toNat + m.toNat + p.c.toNat
    let r : Byte := BitVec.ofNat 8 (t % 256)
    addBinary a m p =
      (r, { withNZ p r with c := decide (t ≥ 256), v := ((a ^^^ r) &&& (m ^^^ r)).getLsbD 7 }) := by
  intro t r
  have hr : BitVec.ofNat 8 t = r := BitVec.eq_of_toNat_eq (by simp [r])
  rw [← hr]
  rfl

/-- R141 as a claim spells it: the sum with the complement is the difference, and its carry says that nothing was
borrowed. -/
theorem subBinary_eq (a m : Byte) (p : Flags) :
    let r : Byte := BitVec.ofInt 8 ((a.toNat : Int) - m.toNat - (1 - p.c.toNat))
    subBinary a m p =
      (r, { withNZ p r with
        c := decide (a.toNat ≥ m.toNat + (1 - p.c.toNat))
        v := ((a ^^^ r) &&& ((m ^^^ 0xFF) ^^^ r)).getLsbD 7 }) := by
  intro r
  have hm := m.isLt
  have hc := p.c.toNat_le
  have hr : BitVec.ofNat 8 ((a.toNat + (m ^^^ 0xFF#8).toNat + p.c.toNat) % 256) = r := by
    apply BitVec.eq_of_toNat_eq
    rw [BitVec.toNat_ofNat, BitVec.toNat_ofInt, complement_toNat]
    omega
  have hcarry : a.toNat + (m ^^^ 0xFF#8).toNat + p.c.toNat ≥ 256 ↔ a.toNat ≥ m.toNat + (1 - p.c.toNat) := by
    rw [complement_toNat]
    omega
  rw [subBinary, addBinary_eq, hr, decide_eq_decide.mpr hcarry]
  rfl

/-- R142 to R144 as a claim spells them: the sum is the difference again, with no borrow coming in. -/
theorem compareFlags_eq (reg m : Byte) (p : Flags) : compareFlags reg m p =
    { p with n := (reg - m).getLsbD 7, z := decide (reg = m), c := decide (reg.toNat ≥ m.toNat) } := by
  have hm := m.isLt
  have hr : BitVec.ofNat 8 (reg.toNat + (m ^^^ 0xFF#8).toNat + 1) = reg - m := by
    apply BitVec.eq_of_toNat_eq
    rw [BitVec.toNat_ofNat, BitVec.toNat_sub, complement_toNat]
    omega
  have hzero : (reg - m == 0#8) = decide (reg = m) := decide_eq_decide.mpr sub_eq_zero
  have hcarry : 256 ≤ reg.toNat + (m ^^^ 0xFF#8).toNat + 1 ↔ reg.toNat ≥ m.toNat := by
    rw [complement_toNat]
    omega
  rw [compareFlags, hr, hzero, decide_eq_decide.mpr hcarry]

/-! ## Signed overflow (42_arithmetic.md R152) -/

theorem getLsbD_seven (v : Byte) : v.getLsbD 7 = decide (128 ≤ v.toNat) :=
  (BitVec.msb_eq_getLsbD_last v).symm.trans (BitVec.msb_eq_decide v)

theorem byte_toInt (v : Byte) : v.toInt = if 128 ≤ v.toNat then (v.toNat : Int) - 256 else v.toNat := by
  rw [BitVec.toInt_eq_toNat_cond]
  split <;> split <;> omega

theorem complement_toInt (m : Byte) : (m ^^^ 0xFF#8).toInt = -1 - m.toInt := by
  have hm := m.isLt
  rw [byte_toInt, byte_toInt, complement_toNat]
  split <;> split <;> omega

/-- The V formula: the sign of `r` is neither that of `a` nor that of `m`. -/
theorem signs_differ_iff (a m r : Byte) : ((a ^^^ r) &&& (m ^^^ r)).getLsbD 7 = true ↔
    ¬ (128 ≤ a.toNat ↔ 128 ≤ r.toNat) ∧ ¬ (128 ≤ m.toNat ↔ 128 ≤ r.toNat) := by
  rw [BitVec.getLsbD_and, BitVec.getLsbD_xor, BitVec.getLsbD_xor, Bool.and_eq_true, Bool.xor_iff_ne, Bool.xor_iff_ne,
    getLsbD_seven, getLsbD_seven, getLsbD_seven, ne_eq, ne_eq, decide_eq_decide, decide_eq_decide]

/-- V after a binary addition. The cases are the signs of the operands. -/
theorem addBinary_overflow (a m : Byte) (p : Flags) : (addBinary a m p).2.v = true ↔
    a.toInt + m.toInt + p.c.toNat < -128 ∨ 127 < a.toInt + m.toInt + p.c.toNat := by
  have ha := a.isLt
  have hm := m.isLt
  have hc := p.c.toNat_le
  rw [addBinary_eq, signs_differ_iff, BitVec.toNat_ofNat, byte_toInt a, byte_toInt m]
  split <;> split <;> omega

/-- V after a binary subtraction, the addition of the complement. -/
theorem subBinary_overflow (a m : Byte) (p : Flags) : (subBinary a m p).2.v = true ↔
    a.toInt - m.toInt - (1 - p.c.toNat) < -128 ∨ 127 < a.toInt - m.toInt - (1 - p.c.toNat) := by
  rw [subBinary, addBinary_overflow, complement_toInt]
  omega

/-! ## Decimal mode (42_arithmetic.md R153) -/

/-- ADC on valid BCD bytes. -/
theorem addDecimal_valid {a m : Byte} (p : Flags) (k : Nat) (ha : validBcd a = true) (hm : validBcd m = true) :
    validBcd (addDecimal a m p k).1 = true ∧
    (bcdValue (addDecimal a m p k).1 : Int) = ((bcdValue a : Int) + bcdValue m + p.c.toNat) % 100 ∧
    ((addDecimal a m p k).2.c = true ↔ bcdValue a + bcdValue m + p.c.toNat ≥ 100) := by
  obtain ⟨valid, value⟩ := bcdByte_spec (Nat.mod_lt (bcdValue a + bcdValue m + p.c.toNat) (by decide : 0 < 100))
  rw [addDecimal, if_pos (by rw [ha, hm]; rfl)]
  exact ⟨valid, by rw [value]; norm_cast, decide_eq_true_iff⟩

/-- SBC on valid BCD bytes. -/
theorem subDecimal_valid {a m : Byte} (p : Flags) (k : Nat) (ha : validBcd a = true) (hm : validBcd m = true) :
    validBcd (subDecimal a m p k).1 = true ∧
    (bcdValue (subDecimal a m p k).1 : Int) = ((bcdValue a : Int) - bcdValue m - (1 - p.c.toNat)) % 100 ∧
    ((subDecimal a m p k).2.c = true ↔ (bcdValue a : Int) - bcdValue m - (1 - p.c.toNat) ≥ 0) := by
  have hlt : (((bcdValue a : Int) - bcdValue m - (1 - p.c.toNat)) % 100).toNat < 100 := by omega
  obtain ⟨valid, value⟩ := bcdByte_spec hlt
  rw [subDecimal, if_pos (by rw [ha, hm]; rfl)]
  exact ⟨valid, by rw [value, Int.toNat_of_nonneg (Int.emod_nonneg _ (by decide))], decide_eq_true_iff⟩

/-- Where D and I are left alone, a write of A and P changes only A, N, V, Z and C. -/
theorem setAP_cpu_of_frame {s : State} {r : Byte × Flags} (h : r.2.d = s.p.d ∧ r.2.i = s.p.i) :
    (s.setAP r).cpu = { s.cpu with a := r.1, p := { s.p with n := r.2.n, v := r.2.v, z := r.2.z, c := r.2.c } } := by
  simp only [State.setAP, State.setP_cpu, State.setA_cpu, ← h.1, ← h.2]

/-! ## What ADC, SBC and the compares do with their operand -/

/-- The instruction `i`, whose words are `words`, comes down to `op` on the operand `m`, in a state that read cycles
lead to, those of the operand or none at all. -/
def AppliesTo (op : Byte × State → State) (i : Instr) (words : List Byte) (s : State) (m : Byte) : Prop :=
  encode i = words ∧ ∃ u, ReadsOnly s u ∧ exec i s = .next (op (m, u))

/-- What is computed from A and P does not depend on the read cycles before it. -/
theorem ReadsOnly.setAP_cpu {s u : State} (h : ReadsOnly s u) (f : Byte → Flags → Byte × Flags) :
    (u.setAP (f u.a u.p)).cpu = (s.setAP (f s.a s.p)).cpu := by
  simp only [State.setAP, State.setP_cpu, State.setA_cpu, h.cpu, h.a, h.p]

section
variable {op : Byte × State → State} {i : Instr} {words : List Byte} {s : State} {m : Byte}

theorem appliesTo_memory {operand : MemOperand} (hw : encode i = words)
    (he : exec i s = .next (op (readOperand operand s))) : AppliesTo op i words s (readOperand operand s).1 :=
  ⟨hw, _, readOperand_readsOnly operand s, he⟩

theorem appliesTo_immediate (hw : encode i = words) (he : exec i s = .next (op (m, s))) : AppliesTo op i words s m :=
  ⟨hw, s, .refl s, he⟩

/-- ADC with P.D = 0. -/
theorem AppliesTo.does_addBinary (h : AppliesTo addToA i words s m) (hd : s.p.d = false) :
    Does i words s (s.setAP (addBinary s.a m s.p)).cpu := by
  obtain ⟨hw, u, reads, he⟩ := h
  have hcpu := addToA_binary_cpu (r := (m, u)) (by rw [reads.p, hd])
  exact does_of_readsOnly reads hw he (hcpu.trans (reads.setAP_cpu (addBinary · m ·))) (addToA_peek (m, u))

/-- SBC with P.D = 0. -/
theorem AppliesTo.does_subBinary (h : AppliesTo subFromA i words s m) (hd : s.p.d = false) :
    Does i words s (s.setAP (subBinary s.a m s.p)).cpu := by
  obtain ⟨hw, u, reads, he⟩ := h
  have hcpu := subFromA_binary_cpu (r := (m, u)) (by rw [reads.p, hd])
  exact does_of_readsOnly reads hw he (hcpu.trans (reads.setAP_cpu (subBinary · m ·))) (subFromA_peek (m, u))

/-- ADC with P.D = 1. The counter `k` of free values is the one after the read cycles. -/
theorem AppliesTo.does_addDecimal (h : AppliesTo addToA i words s m) (hd : s.p.d = true) :
    ∃ k, Does i words s (s.setAP (addDecimal s.a m s.p k)).cpu := by
  obtain ⟨hw, u, reads, he⟩ := h
  have hcpu := addToA_decimal_cpu (r := (m, u)) (by rw [reads.p, hd])
  exact ⟨u.env.free, does_of_readsOnly reads hw he (hcpu.trans (reads.setAP_cpu (addDecimal · m · u.env.free)))
    (addToA_peek (m, u))⟩

/-- SBC with P.D = 1. The counter `k` of free values is the one after the read cycles. -/
theorem AppliesTo.does_subDecimal (h : AppliesTo subFromA i words s m) (hd : s.p.d = true) :
    ∃ k, Does i words s (s.setAP (subDecimal s.a m s.p k)).cpu := by
  obtain ⟨hw, u, reads, he⟩ := h
  have hcpu := subFromA_decimal_cpu (r := (m, u)) (by rw [reads.p, hd])
  exact ⟨u.env.free, does_of_readsOnly reads hw he (hcpu.trans (reads.setAP_cpu (subDecimal · m · u.env.free)))
    (subFromA_peek (m, u))⟩

/-- What an ADC or SBC shows, as the statements about it ask for: its result in A and P, and the rest as before. -/
theorem Does.shows_setAP {r : Byte × Flags} (h : Does i words s (s.setAP r).cpu)
    (hr : r.2.d = s.p.d ∧ r.2.i = s.p.i) :
    ∃ t, exec i s = .next t ∧ MemoryKept s t ∧
      (∃ a n v z c, t.cpu = { s.cpu with a := a, p := { s.p with n := n, v := v, z := z, c := c } }) ∧
      t.a = r.1 ∧ t.p = r.2 := by
  obtain ⟨_, t, he, hcpu, hmem⟩ := h
  exact ⟨t, he, hmem, ⟨_, _, _, _, _, hcpu.trans (setAP_cpu_of_frame hr)⟩, congrArg Cpu.a hcpu, congrArg Cpu.p hcpu⟩

/-- CMP, CPX or CPY, whose register read cycles leave alone. -/
theorem AppliesTo.does_compare {reg : State → Byte} (hreg : ∀ u, ReadsOnly s u → reg u = reg s)
    (h : AppliesTo (fun r => r.2.setP (compareFlags (reg r.2) r.1 r.2.p)) i words s m) :
    Does i words s (s.setP (compareFlags (reg s) m s.p)).cpu := by
  obtain ⟨hw, u, reads, he⟩ := h
  refine does_of_readsOnly reads hw he ?_ (State.setP_peek u _)
  rw [State.setP_cpu, State.setP_cpu, reads.cpu, reads.p, hreg u reads]

end

/-! ## ADC and SBC, mode by mode -/

/-- What holds of every instruction that adds its operand to A holds of ADC in its eight modes. -/
theorem adc_modes {P : Instr → List Byte → Byte → Prop} (s : State) (b : Byte) (w : Word)
    (h : ∀ {i words m}, AppliesTo addToA i words s m → P i words m) :
    P (.adcIndX b) [0x61, b] (readOperand (.indX b) s).1 ∧
    P (.adcZp b) [0x65, b] (readOperand (.zp b) s).1 ∧
    P (.adcImm b) [0x69, b] b ∧
    P (.adcAbs w) [0x6D, loByte w, hiByte w] (readOperand (.abs w) s).1 ∧
    P (.adcIndY b) [0x71, b] (readOperand (.indY b) s).1 ∧
    P (.adcZpX b) [0x75, b] (readOperand (.zpX b) s).1 ∧
    P (.adcAbsY w) [0x79, loByte w, hiByte w] (readOperand (.absY w) s).1 ∧
    P (.adcAbsX w) [0x7D, loByte w, hiByte w] (readOperand (.absX w) s).1 :=
  ⟨h (appliesTo_memory rfl rfl), h (appliesTo_memory rfl rfl), h (appliesTo_immediate rfl rfl),
    h (appliesTo_memory rfl rfl), h (appliesTo_memory rfl rfl), h (appliesTo_memory rfl rfl),
    h (appliesTo_memory rfl rfl), h (appliesTo_memory rfl rfl)⟩

/-- What holds of every instruction that subtracts its operand from A holds of SBC in its eight modes. -/
theorem sbc_modes {P : Instr → List Byte → Byte → Prop} (s : State) (b : Byte) (w : Word)
    (h : ∀ {i words m}, AppliesTo subFromA i words s m → P i words m) :
    P (.sbcIndX b) [0xE1, b] (readOperand (.indX b) s).1 ∧
    P (.sbcZp b) [0xE5, b] (readOperand (.zp b) s).1 ∧
    P (.sbcImm b) [0xE9, b] b ∧
    P (.sbcAbs w) [0xED, loByte w, hiByte w] (readOperand (.abs w) s).1 ∧
    P (.sbcIndY b) [0xF1, b] (readOperand (.indY b) s).1 ∧
    P (.sbcZpX b) [0xF5, b] (readOperand (.zpX b) s).1 ∧
    P (.sbcAbsY w) [0xF9, loByte w, hiByte w] (readOperand (.absY w) s).1 ∧
    P (.sbcAbsX w) [0xFD, loByte w, hiByte w] (readOperand (.absX w) s).1 :=
  ⟨h (appliesTo_memory rfl rfl), h (appliesTo_memory rfl rfl), h (appliesTo_immediate rfl rfl),
    h (appliesTo_memory rfl rfl), h (appliesTo_memory rfl rfl), h (appliesTo_memory rfl rfl),
    h (appliesTo_memory rfl rfl), h (appliesTo_memory rfl rfl)⟩

/-- Settles O25. -/
theorem adcAddsInBinary : Obligations.AdcAddsInBinary := by
  intro s b w hd adds
  refine adc_modes (P := adds) s b w fun {i words m} h => ?_
  have does := h.does_addBinary hd
  rw [addBinary_eq] at does
  exact does

/-- Settles O26. -/
theorem sbcSubtractsInBinary : Obligations.SbcSubtractsInBinary := by
  intro s b w hd subs
  refine sbc_modes (P := subs) s b w fun {i words m} h => ?_
  have does := h.does_subBinary hd
  rw [subBinary_eq] at does
  exact does

/-- Settles O27: V is the one of the binary operation, which reports signed overflow. -/
theorem overflowFlagReportsSignedOverflow : Obligations.OverflowFlagReportsSignedOverflow := by
  intro s b w hd overflows sum difference
  have add {i words m} (h : AppliesTo addToA i words s m) : overflows sum i m := by
    obtain ⟨t, he, _, _, _, hp⟩ := (h.does_addBinary hd).shows_setAP ⟨rfl, rfl⟩
    exact ⟨t, he, hp ▸ addBinary_overflow s.a m s.p⟩
  have sub {i words m} (h : AppliesTo subFromA i words s m) : overflows difference i m := by
    obtain ⟨t, he, _, _, _, hp⟩ := (h.does_subBinary hd).shows_setAP ⟨rfl, rfl⟩
    exact ⟨t, he, hp ▸ subBinary_overflow s.a m s.p⟩
  obtain ⟨indX, zp, imm, abs, indY, zpX, absY, absX⟩ := adc_modes (P := fun i _ m => overflows sum i m) s b w add
  exact ⟨indX, zp, imm, abs, indY, zpX, absY, absX,
    sbc_modes (P := fun i _ m => overflows difference i m) s b w sub⟩

/-- Settles O28. -/
theorem adcAddsInDecimal : Obligations.AdcAddsInDecimal := by
  intro s b w hd ha decimal
  refine adc_modes (P := decimal) s b w fun {i words m} h => ?_
  obtain ⟨k, does⟩ := h.does_addDecimal hd
  obtain ⟨t, he, hmem, hrest, hta, htp⟩ := does.shows_setAP (addDecimal_frame s.a m s.p k)
  refine ⟨does.1, t, he, hmem, hrest, fun hm => ?_⟩
  rw [hta, htp]
  exact addDecimal_valid s.p k ha hm

/-- Settles O29. -/
theorem sbcSubtractsInDecimal : Obligations.SbcSubtractsInDecimal := by
  intro s b w hd ha decimal
  refine sbc_modes (P := decimal) s b w fun {i words m} h => ?_
  obtain ⟨k, does⟩ := h.does_subDecimal hd
  obtain ⟨t, he, hmem, hrest, hta, htp⟩ := does.shows_setAP (subDecimal_frame s.a m s.p k)
  refine ⟨does.1, t, he, hmem, hrest, fun hm => ?_⟩
  rw [hta, htp]
  exact subDecimal_valid s.p k ha hm

/-- Settles O30: D and I are left alone whatever the operands are. -/
theorem invalidBcdLeavesTheRestAlone : Obligations.InvalidBcdLeavesTheRestAlone := by
  intro s b w hd frame
  have add {i words m} (h : AppliesTo addToA i words s m) : frame i := by
    obtain ⟨k, does⟩ := h.does_addDecimal hd
    obtain ⟨t, he, hmem, hrest, _, _⟩ := does.shows_setAP (addDecimal_frame s.a m s.p k)
    exact ⟨t, he, hmem, hrest⟩
  have sub {i words m} (h : AppliesTo subFromA i words s m) : frame i := by
    obtain ⟨k, does⟩ := h.does_subDecimal hd
    obtain ⟨t, he, hmem, hrest, _, _⟩ := does.shows_setAP (subDecimal_frame s.a m s.p k)
    exact ⟨t, he, hmem, hrest⟩
  obtain ⟨indX, zp, imm, abs, indY, zpX, absY, absX⟩ := adc_modes (P := fun i _ _ => frame i) s b w add
  exact ⟨indX, zp, imm, abs, indY, zpX, absY, absX, sbc_modes (P := fun i _ _ => frame i) s b w sub⟩

/-! ## Compares -/

/-- Settles O31, for each of the three registers. -/
theorem comparesSetNZCOnly : Obligations.ComparesSetNZCOnly := by
  intro s b w compares
  have compare {reg : State → Byte} (hreg : ∀ u, ReadsOnly s u → reg u = reg s) {i words m}
      (h : AppliesTo (fun r => r.2.setP (compareFlags (reg r.2) r.1 r.2.p)) i words s m) :
      compares (reg s) i words m := by
    have does := h.does_compare hreg
    rw [compareFlags_eq] at does
    exact does
  have cmp {i words m} : AppliesTo compareWithA i words s m → compares s.a i words m := compare fun _ reads => reads.a
  have cpx {i words m} : AppliesTo compareWithX i words s m → compares s.x i words m := compare fun _ reads => reads.x
  have cpy {i words m} : AppliesTo compareWithY i words s m → compares s.y i words m := compare fun _ reads => reads.y
  exact ⟨cmp (appliesTo_memory rfl rfl), cmp (appliesTo_memory rfl rfl), cmp (appliesTo_immediate rfl rfl),
    cmp (appliesTo_memory rfl rfl), cmp (appliesTo_memory rfl rfl), cmp (appliesTo_memory rfl rfl),
    cmp (appliesTo_memory rfl rfl), cmp (appliesTo_memory rfl rfl),
    cpx (appliesTo_immediate rfl rfl), cpx (appliesTo_memory rfl rfl), cpx (appliesTo_memory rfl rfl),
    cpy (appliesTo_immediate rfl rfl), cpy (appliesTo_memory rfl rfl), cpy (appliesTo_memory rfl rfl)⟩

/-! ## Increments and decrements -/

/-- A read-modify-write to RAM leaves its result at the effective address. -/
theorem modifyOperand_peek_same {m : MemOperand} (f : Byte → Flags → Byte × Flags) {s : State}
    (h : s.IsRam (effectiveAddr .modify m s).1) : (modifyOperand m f s).peek (effectiveAddr .modify m s).1 =
      (f (memRead (effectiveAddr .modify m s).1 (effectiveAddr .modify m s).2).1 s.p).1 := by
  rw [modifyOperand_peek, if_pos ⟨rfl, h⟩]

/-- A byte that a read-modify-write does not reach, since it is another one or not RAM, is as before. -/
theorem modifyOperand_peek_unreached {m : MemOperand} (f : Byte → Flags → Byte × Flags) {s : State} {addr : Word}
    (hd : s.NoDma) (h : ¬ (busAddr s.cfg.member addr = busAddr s.cfg.member (effectiveAddr .modify m s).1 ∧
      s.IsRam (effectiveAddr .modify m s).1)) : (modifyOperand m f s).peek addr = s.peek addr :=
  have reads := (effectiveAddr_readsOnly .modify m s).trans (memRead_readsOnly _ _)
  ((modifyOperand_peek m f s addr).trans (if_neg h)).trans (reads.peek hd addr)

/-- The byte M of a read-modify-write is what memory holds, where the effective address is memory. -/
theorem modifyOperand_old_memory {m : MemOperand} {s : State} (hd : s.NoDma)
    (hm : s.IsMemory (effectiveAddr .modify m s).1) :
    (memRead (effectiveAddr .modify m s).1 (effectiveAddr .modify m s).2).1 =
      s.peek (effectiveAddr .modify m s).1 :=
  have reads := effectiveAddr_readsOnly .modify m s
  (memRead_memory (reads.noDma hd) (reads.toSameCpu.isMemory.mpr hm)).trans (reads.peek hd _)

/-- An instruction whose meaning is `modifyOperand` modifies as the statements say, with the result and the flags of the
operation. -/
theorem modifies_of_exec {i : Instr} {words : List Byte} {s : State} {m : MemOperand}
    {f : Byte → Flags → Byte × Flags} {result : Byte → Byte} {flags : Byte → Flags}
    (hf : ∀ v, f v s.p = (result v, flags v)) (hw : encode i = words)
    (he : exec i s = .next (modifyOperand m f s)) : Modifies i words s m result flags :=
  ⟨hw, _, he, by rw [modifyOperand_cpu, hf], fun ram => by rw [modifyOperand_peek_same f ram, hf],
    modifyOperand_old_memory, fun hd notRam => modifyOperand_peek_unreached f hd fun h => notRam h.2,
    fun hd _ other => modifyOperand_peek_unreached f hd fun h => other h.1⟩

/-- Settles O32, the four modes of each. -/
theorem incAndDecChangeOneByte : Obligations.IncAndDecChangeOneByte := by
  intro s b w incs decs
  have inc {i words m} : encode i = words → exec i s = .next (modifyOperand m increment s) → incs i words m :=
    modifies_of_exec fun _ => rfl
  have dec {i words m} : encode i = words → exec i s = .next (modifyOperand m decrement s) → decs i words m :=
    modifies_of_exec fun _ => rfl
  exact ⟨inc rfl rfl, inc rfl rfl, inc rfl rfl, inc rfl rfl, dec rfl rfl, dec rfl rfl, dec rfl rfl, dec rfl rfl⟩

/-- Settles O33: each is a load of the neighbouring number, with no read cycle. -/
theorem indexRegistersCountByOne : Obligations.IndexRegistersCountByOne := fun s =>
  have noCycle : ReadsOnly s s := .refl s
  ⟨does_loadX noCycle rfl rfl, does_loadY noCycle rfl rfl, does_loadX noCycle rfl rfl, does_loadY noCycle rfl rfl⟩

end Sys2Proof.Machine
end

section
/-! PROOFS. Logical operations, BIT, shifts and rotates (43_logic_shift.md R160 to R167): what each computes, on A and in
memory, and that it changes nothing else. -/

namespace Sys2Proof.Machine

/-! ## AND, ORA, EOR and BIT -/

/-- `A <- op(A, M); SetNZ(A)`. Read cycles leave A alone, so it is the A before them that is combined. -/
theorem AppliesTo.does_combine {op : Byte → Byte → Byte} {i : Instr} {words : List Byte} {s : State} {m : Byte}
    (h : AppliesTo (fun r => r.2.loadA (op r.2.a r.1)) i words s m) :
    Does i words s { s.cpu with a := op s.a m, p := withNZ s.p (op s.a m) } := by
  obtain ⟨hw, u, reads, he⟩ := h
  exact does_loadA reads hw (reads.a ▸ he)

@[simp] theorem testBits_peek (r : Byte × State) (addr : Word) : (testBits r).peek addr = r.2.peek addr :=
  State.setP_peek _ _ _

/-- The flags of BIT after read cycles: Z from A and M, N and V from M. -/
theorem ReadsOnly.testBits_cpu {s u : State} (h : ReadsOnly s u) (m : Byte) :
    (testBits (m, u)).cpu =
      { s.cpu with p := { s.p with z := decide (s.a &&& m = 0), n := m.getLsbD 7, v := m.getLsbD 6 } } := by
  rw [testBits, State.setP_cpu, h.cpu, h.a, h.p]
  rfl

/-- Settles O34: the three operations differ only in how they combine A with M. -/
theorem logicalInstructionsCombineAWithTheOperand : Obligations.LogicalInstructionsCombineAWithTheOperand := by
  intro s b w gives
  have and {i words m} : AppliesTo andIntoA i words s m → gives (· &&& ·) i words m := AppliesTo.does_combine
  have ora {i words m} : AppliesTo orIntoA i words s m → gives (· ||| ·) i words m := AppliesTo.does_combine
  have eor {i words m} : AppliesTo xorIntoA i words s m → gives (· ^^^ ·) i words m := AppliesTo.does_combine
  exact ⟨and (appliesTo_memory rfl rfl), and (appliesTo_memory rfl rfl), and (appliesTo_immediate rfl rfl),
    and (appliesTo_memory rfl rfl), and (appliesTo_memory rfl rfl), and (appliesTo_memory rfl rfl),
    and (appliesTo_memory rfl rfl), and (appliesTo_memory rfl rfl),
    ora (appliesTo_memory rfl rfl), ora (appliesTo_memory rfl rfl), ora (appliesTo_immediate rfl rfl),
    ora (appliesTo_memory rfl rfl), ora (appliesTo_memory rfl rfl), ora (appliesTo_memory rfl rfl),
    ora (appliesTo_memory rfl rfl), ora (appliesTo_memory rfl rfl),
    eor (appliesTo_memory rfl rfl), eor (appliesTo_memory rfl rfl), eor (appliesTo_immediate rfl rfl),
    eor (appliesTo_memory rfl rfl), eor (appliesTo_memory rfl rfl), eor (appliesTo_memory rfl rfl),
    eor (appliesTo_memory rfl rfl), eor (appliesTo_memory rfl rfl)⟩

/-- Settles O35, for both modes: nothing comes after the read cycles of the operand but a write of P. -/
theorem bitTestsMemoryAgainstA : Obligations.BitTestsMemoryAgainstA := by
  intro s b w tests
  have bit {i words m} (hw : encode i = words) (he : exec i s = .next (testBits (readOperand m s))) :
      tests i words (readOperand m s).1 :=
    have reads := readOperand_readsOnly m s
    does_of_readsOnly reads hw he (reads.testBits_cpu _) (testBits_peek _)
  exact ⟨bit rfl rfl, bit rfl rfl⟩

/-! ## Shifts and rotates -/

@[simp] theorem modifyA_cpu (f : Byte → Flags → Byte × Flags) (s : State) :
    (modifyA f s).cpu = { s.cpu with a := (f s.a s.p).1, p := (f s.a s.p).2 } := rfl

@[simp] theorem modifyA_peek (f : Byte → Flags → Byte × Flags) (s : State) (addr : Word) :
    (modifyA f s).peek addr = s.peek addr := rfl

/-- With the flags `p`, the operation `f` moves the bits of a byte `v` as `move` does: to the result `(move v).1`, which N
and Z follow, with `(move v).2` shifted out into C. -/
def MovesBits (f : Byte → Flags → Byte × Flags) (p : Flags) (move : Byte → Byte × Bool) : Prop :=
  ∀ v, f v p = ((move v).1, { withNZ p (move v).1 with c := (move v).2 })

/-- The operation is known by its result and by the flags it sets from that result. -/
theorem movesBits_of_result {f : Byte → Flags → Byte × Flags} {p : Flags} {result : Byte → Byte} {carry : Byte → Bool}
    (hresult : ∀ v, (f v p).1 = result v) (hflags : ∀ v, (f v p).2 = { p.setNZ (f v p).1 with c := carry v }) :
    MovesBits f p fun v => (result v, carry v) :=
  fun v => Prod.ext (hresult v) (by rw [hflags, hresult, setNZ_eq_withNZ])

section
variable {f : Byte → Flags → Byte × Flags} {move : Byte → Byte × Bool} {i : Instr} {words : List Byte} {s : State}

/-- A shift or rotate of A. -/
theorem MovesBits.does_modifyA (h : MovesBits f s.p move) (hw : encode i = words)
    (he : exec i s = .next (modifyA f s)) :
    Does i words s { s.cpu with a := (move s.a).1, p := { withNZ s.p (move s.a).1 with c := (move s.a).2 } } :=
  does_of_readsOnly (.refl s) hw he (by rw [modifyA_cpu, h s.a]) (modifyA_peek f s)

/-- A shift or rotate of a byte in memory. -/
theorem MovesBits.modifies {m : MemOperand} (h : MovesBits f s.p move) (hw : encode i = words)
    (he : exec i s = .next (modifyOperand m f s)) :
    Modifies i words s m (fun v => (move v).1) (fun v => { withNZ s.p (move v).1 with c := (move v).2 }) :=
  modifies_of_exec h hw he

end

/-- Settles O36: four modes in memory and one on A for each. -/
theorem shiftsMoveOneBitAndFillWithZero : Obligations.ShiftsMoveOneBitAndFillWithZero := by
  intro s b w left right onA inMemory
  have asl : MovesBits shiftLeft s.p left := movesBits_of_result (shiftLeft_result s.p) fun _ => rfl
  have lsr : MovesBits shiftRight s.p right := movesBits_of_result (shiftRight_result s.p) fun _ => rfl
  exact ⟨asl.modifies rfl rfl, asl.does_modifyA rfl rfl, asl.modifies rfl rfl, asl.modifies rfl rfl, asl.modifies rfl rfl,
    lsr.modifies rfl rfl, lsr.does_modifyA rfl rfl, lsr.modifies rfl rfl, lsr.modifies rfl rfl, lsr.modifies rfl rfl⟩

/-- Settles O37, as O36, with the C that stands in P before the instruction coming in. -/
theorem rotatesMoveOneBitThroughCarry : Obligations.RotatesMoveOneBitThroughCarry := by
  intro s b w left right onA inMemory
  have rol : MovesBits rotateLeft s.p left := movesBits_of_result (rotateLeft_result s.p) fun _ => rfl
  have ror : MovesBits rotateRight s.p right := movesBits_of_result (rotateRight_result s.p) fun _ => rfl
  exact ⟨rol.modifies rfl rfl, rol.does_modifyA rfl rfl, rol.modifies rfl rfl, rol.modifies rfl rfl, rol.modifies rfl rfl,
    ror.modifies rfl rfl, ror.does_modifyA rfl rfl, ror.modifies rfl rfl, ror.modifies rfl rfl, ror.modifies rfl rfl⟩

end Sys2Proof.Machine
end

section
/-! PROOFS. Branches, jumps and subroutines (44_control_transfer.md R180 to R192): where PC goes, the bus cycles made on
the way, and that nothing else changes. -/

namespace Sys2Proof.Machine

/-! ## Exactly these read cycles -/

/-- What kind of address it is depends on the platform alone. -/
theorem isMemory_iff_of_cfg {s t : State} (h : t.cfg = s.cfg) (addr : Word) : t.IsMemory addr ↔ s.IsMemory addr := by
  simp only [State.IsMemory, State.kindOf, h]

/-- `t` comes from `s` by exactly the read cycles of the list, an address and the byte returned there each. Of the
processor it says nothing, so that S may move between two pulls. -/
structure MakesReads (s : State) (reads : List (Word × Byte)) (t : State) : Prop where
  cfg : t.cfg = s.cfg
  mem : s.NoDma → t.mem = s.mem
  noDma : s.NoDma → t.NoDma
  trace : t.env.trace = s.env.trace ++ reads.map fun r => readCycle s r.1 r.2
  memory : s.NoDma → ∀ r ∈ reads, s.IsMemory r.1 → r.2 = s.peek r.1

/-- Read cycles change no byte of memory, unless a DMA master acts in them (20_memory.md R63). -/
theorem MakesReads.memoryKept {s t : State} {reads : List (Word × Byte)} (h : MakesReads s reads t) : MemoryKept s t :=
  fun hd addr => by rw [State.peek, State.peek, h.cfg, h.mem hd]

theorem MakesReads.trans {s t u : State} {first later : List (Word × Byte)} (h : MakesReads s first t)
    (k : MakesReads t later u) : MakesReads s (first ++ later) u where
  cfg := k.cfg.trans h.cfg
  mem hd := (k.mem (h.noDma hd)).trans (h.mem hd)
  noDma hd := k.noDma (h.noDma hd)
  trace := by
    rw [k.trace, h.trace, List.append_assoc, List.map_append]
    simp only [readCycle, h.cfg]
  memory hd r hr hm := by
    rcases List.mem_append.mp hr with hr | hr
    · exact h.memory hd r hr hm
    · have memoryThen : t.IsMemory r.1 := (isMemory_iff_of_cfg h.cfg r.1).mpr hm
      exact (k.memory (h.noDma hd) r hr memoryThen).trans (h.memoryKept hd r.1)

/-- Moving a register makes no cycle. -/
theorem makesReads_none {s t : State} (hcfg : t.cfg = s.cfg) (hmem : t.mem = s.mem) (henv : t.env = s.env) :
    MakesReads s [] t :=
  ⟨hcfg, fun _ => hmem, fun hd => (congrArg Env.dma henv).trans hd,
    by rw [henv, List.map_nil, List.append_nil], fun _ _ hr => absurd hr List.not_mem_nil⟩

theorem makesReads_setPc (s : State) (v : Word) : MakesReads s [] (s.setPc v) := makesReads_none rfl rfl rfl

theorem makesReads_setSp (s : State) (v : Byte) : MakesReads s [] (s.setSp v) := makesReads_none rfl rfl rfl

theorem makesReads_memRead (addr : Word) (s : State) :
    MakesReads s [(addr, (memRead addr s).1)] (memRead addr s).2 :=
  have reads := memRead_readsOnly addr s
  ⟨reads.cfg, reads.mem, reads.noDma, memRead_trace addr s,
    fun hd r hr hm => by cases List.mem_singleton.mp hr; exact memRead_memory hd hm⟩

theorem makesReads_discardRead (addr : Word) (s : State) :
    MakesReads s [(addr, (memRead addr s).1)] (discardRead addr s) := makesReads_memRead addr s

theorem makesReads_pull (s : State) : MakesReads s [(stackAddr (s.sp + 1), (pull s).1)] (pull s).2 :=
  (makesReads_setSp s _).trans (makesReads_memRead _ _)

theorem makesReads_peekStack (s : State) :
    MakesReads s [(stackAddr s.sp, (memRead (stackAddr s.sp) s).1)] (peekStack s) := makesReads_discardRead _ _

/-- An instruction that makes the read cycles of a list does it as the statements say. -/
theorem MakesReads.doesReading {i : Instr} {words : List Byte} {s t : State} {reads : List (Word × Byte)} {post : Cpu}
    (h : MakesReads s reads t) (hw : encode i = words) (he : exec i s = .next t) (hcpu : t.cpu = post) :
    DoesReading i words s reads post :=
  ⟨hw, t, he, hcpu, h.memoryKept, h.trace, h.memory⟩

/-! ## Branches -/

/-- The target of a branch as a sum of numbers: the displacement is signed (40_addressing_modes.md R109). -/
theorem branchTarget_eq_ofInt (rel : Byte) (pc : Word) :
    branchTarget rel pc = BitVec.ofInt 16 ((pc.toNat : Int) + rel.toInt) := by
  rw [branchTarget, sext16, BitVec.ofInt_add, BitVec.ofInt_natCast, BitVec.ofNat_toNat, BitVec.setWidth_eq,
    BitVec.signExtend]

/-- Two addresses in one page. -/
theorem hiByte_eq_iff {v w : Word} : hiByte v = hiByte w ↔ v.toNat / 256 = w.toNat / 256 := by
  rw [← BitVec.toNat_inj, hiByte_toNat, hiByte_toNat]

/-- All a branch does to the processor: PC goes to the target if it is taken. -/
theorem branch_cpu (cond : Bool) (rel : Byte) (s : State) :
    (branch cond rel s).cpu = { s.cpu with pc := if cond then branchTarget rel s.pc else s.pc } := by
  obtain ⟨t, reads, e⟩ := branch_readsOnly cond rel s
  rw [e, State.setPc_cpu, reads.cpu]

theorem branch_memoryKept (cond : Bool) (rel : Byte) (s : State) : MemoryKept s (branch cond rel s) := by
  obtain ⟨t, reads, e⟩ := branch_readsOnly cond rel s
  intro hd addr
  rw [e, State.setPc_peek, reads.peek hd]

/-- Settles O39: the eight branches differ in the flag they test. -/
theorem branchesMoveThePCByASignedByte : Obligations.BranchesMoveThePCByASignedByte := by
  intro s b branches
  have tests {i words} {cond taken : Bool} (hc : cond = taken) (hw : encode i = words)
      (he : exec i s = .next (branch taken b s)) : branches i words cond := by
    subst hc
    refine ⟨hw, _, he, ?_, branch_memoryKept cond b s, ?_⟩
    · rw [branch_cpu, branchTarget_eq_ofInt]
    · rw [cycles_branch cond b s, branchExtra, ← branchTarget_eq_ofInt]
      simp only [hiByte_eq_iff]
  exact ⟨tests Bool.decide_eq_false rfl rfl, tests Bool.decide_eq_true rfl rfl, tests Bool.decide_eq_true rfl rfl,
    tests Bool.decide_eq_false rfl rfl, tests Bool.decide_eq_true rfl rfl, tests Bool.decide_eq_false rfl rfl,
    tests Bool.decide_eq_false rfl rfl, tests Bool.decide_eq_true rfl rfl⟩

/-! ## Jumps -/

/-- The second byte of the pointer comes from the next address within the page (40_addressing_modes.md R112). -/
theorem uncarried_one (ptr : Word) :
    uncarried ptr 1 = BitVec.ofNat 16 (256 * (ptr.toNat / 256) + (ptr.toNat + 1) % 256) :=
  calc uncarried ptr 1
    _ = BitVec.ofNat 16 (uncarried ptr 1).toNat := by rw [BitVec.ofNat_toNat, BitVec.setWidth_eq]
    _ = BitVec.ofNat 16 (256 * (ptr.toNat / 256) + (ptr.toNat + 1) % 256) := by rw [uncarried_toNat]; rfl

theorem makesReads_jumpIndirect (ptr : Word) (s : State) :
    ∃ lo hi, MakesReads s [(ptr, lo), (uncarried ptr 1, hi)] (jumpIndirect ptr s) ∧
      (jumpIndirect ptr s).cpu = { s.cpu with pc := joinBytes hi lo } := by
  have reads := (makesReads_memRead ptr s).trans (makesReads_memRead (uncarried ptr 1) (memRead ptr s).2)
  refine ⟨_, _, reads.trans (makesReads_setPc _ _), ?_⟩
  rw [jumpIndirect, jumpPointer, State.setPc_cpu, memRead_cpu, memRead_cpu]

/-- Settles O40, a clause for each of the two modes. -/
theorem jmpLoadsThePC : Obligations.JmpLoadsThePC := by
  intro s w
  refine ⟨does_of_readsOnly (.refl s) rfl rfl (s.setPc_cpu w) (s.setPc_peek w), ?_⟩
  obtain ⟨lo, hi, reads, hcpu⟩ := makesReads_jumpIndirect w s
  rw [uncarried_one] at reads
  exact ⟨lo, hi, reads.doesReading rfl rfl hcpu⟩

/-! ## JSR -/

/-- JSR before its last cycle: the address of its last byte is on the stack, and the target's high byte is still to be
read (44_control_transfer.md R189). -/
def returnPushed (s : State) : State := push (loByte (s.pc - 1)) (push (hiByte (s.pc - 1)) (peekStack s))

theorem callSubroutine_eq (lo : Byte) (s : State) : callSubroutine lo s =
    (memRead (s.pc - 1) (returnPushed s)).2.setPc (joinBytes (memRead (s.pc - 1) (returnPushed s)).1 lo) := rfl

@[simp] theorem returnPushed_cfg (s : State) : (returnPushed s).cfg = s.cfg := by
  rw [returnPushed, push_cfg, push_cfg, peekStack_cfg]

theorem returnPushed_noDma {s : State} (hd : s.NoDma) : (returnPushed s).NoDma :=
  push_noDma (push_noDma ((peekStack_readsOnly s).noDma hd))

theorem returnPushed_trace (s : State) :
    ∃ top, (returnPushed s).env.trace = s.env.trace ++
      [readCycle s (stackAddr s.sp) top, writeCycle s (stackAddr s.sp) (hiByte (s.pc - 1)),
       writeCycle s (stackAddr (s.sp - 1)) (loByte (s.pc - 1))] := by
  refine ⟨(memRead (stackAddr s.sp) s).1, ?_⟩
  simp only [returnPushed, push_trace, push_sp, writeCycle_push, peekStack_trace, peekStack_sp,
    (peekStack_readsOnly s).writeCycle, List.append_assoc, List.cons_append, List.nil_append]

/-- The bus cycles of JSR, and PC from the byte that the last of them returns (44_control_transfer.md R189). -/
theorem callSubroutine_cycles (lo : Byte) (s : State) :
    ∃ top hi, (callSubroutine lo s).pc = joinBytes hi lo ∧
      (callSubroutine lo s).env.trace = s.env.trace ++
        [readCycle s (stackAddr s.sp) top, writeCycle s (stackAddr s.sp) (hiByte (s.pc - 1)),
         writeCycle s (stackAddr (s.sp - 1)) (loByte (s.pc - 1)), readCycle s (s.pc - 1) hi] ∧
      (s.NoDma → s.IsMemory (s.pc - 1) → hi = (callSubroutine lo s).peek (s.pc - 1)) := by
  have last := makesReads_memRead (s.pc - 1) (returnPushed s)
  obtain ⟨top, pushes⟩ := returnPushed_trace s
  rw [callSubroutine_eq]
  refine ⟨top, (memRead (s.pc - 1) (returnPushed s)).1, rfl, ?_, fun hd hm => ?_⟩
  · rw [State.setPc_env, last.trace, pushes]
    simp only [readCycle, returnPushed_cfg, List.map_cons, List.map_nil, List.append_assoc, List.cons_append,
      List.nil_append]
  · have memoryThen := (isMemory_iff_of_cfg (returnPushed_cfg s) (s.pc - 1)).mpr hm
    rw [State.setPc_peek, last.memoryKept (returnPushed_noDma hd), memRead_memory (returnPushed_noDma hd) memoryThen]

/-- JSR leaves the address of its last byte on the stack, where that is RAM (44_control_transfer.md R189). -/
theorem callSubroutine_peek_stack {s : State} (hd : s.NoDma) (lo : Byte) :
    (s.IsRam (stackAddr s.sp) → (callSubroutine lo s).peek (stackAddr s.sp) = hiByte (s.pc - 1)) ∧
    (s.IsRam (stackAddr (s.sp - 1)) → (callSubroutine lo s).peek (stackAddr (s.sp - 1)) = loByte (s.pc - 1)) := by
  have apart : busAddr s.cfg.member (stackAddr s.sp) ≠ busAddr s.cfg.member (stackAddr (s.sp - 1)) := by
    rw [Ne, busAddr_stackAddr_inj]; bv_omega
  constructor
  · intro ram
    rw [callSubroutine_peek hd, if_neg fun h => apart h.1, if_pos ⟨rfl, ram⟩]
  · intro ram
    rw [callSubroutine_peek hd, if_pos ⟨rfl, ram⟩]

/-- Settles O41: the four bus cycles, and memory by what the two pushes leave there. -/
theorem jsrPushesTheAddressOfItsLastByte : Obligations.JsrPushesTheAddressOfItsLastByte := by
  intro s w
  obtain ⟨top, hi, hpc, htrace, hhi⟩ := callSubroutine_cycles (loByte w) s
  refine ⟨rfl, _, top, hi, rfl, by rw [callSubroutine_cpu, hpc], htrace, fun hd => ?_⟩
  obtain ⟨high, low⟩ := callSubroutine_peek_stack hd (loByte w)
  refine ⟨hhi hd, high, low, fun addr notHigh notLow => ?_⟩
  rw [callSubroutine_peek hd, if_neg fun h => notLow h.1, if_neg fun h => notHigh h.1]

/-! ## RTS -/

/-- The read cycles of RTS, and the processor after them (44_control_transfer.md R190). -/
theorem makesReads_returnFromSubroutine (s : State) :
    ∃ top lo hi unused,
      MakesReads s [(stackAddr s.sp, top), (stackAddr (s.sp + 1), lo), (stackAddr (s.sp + 2), hi),
        (joinBytes hi lo, unused)] (returnFromSubroutine s) ∧
      (returnFromSubroutine s).cpu = { s.cpu with sp := s.sp + 2, pc := joinBytes hi lo + 1 } := by
  have e : s.sp + 1 + 1 = s.sp + 2 := by bv_omega
  have low := makesReads_pull (peekStack s)
  have high := makesReads_pull (pull (peekStack s)).2
  rw [peekStack_sp] at low
  rw [pull_sp, peekStack_sp, e] at high
  have pulled := (makesReads_peekStack s).trans (low.trans high)
  exact ⟨_, _, _, _, pulled.trans ((makesReads_discardRead _ _).trans (makesReads_setPc _ _)),
    (returnFromSubroutine_readsOnly s).cpu⟩

/-- Settles O42: RTS is four read cycles and a move of S and PC. -/
theorem rtsPullsTheAddressAndAddsOne : Obligations.RtsPullsTheAddressAndAddsOne := by
  intro s
  obtain ⟨top, lo, hi, unused, reads, hcpu⟩ := makesReads_returnFromSubroutine s
  exact ⟨top, lo, hi, unused, reads.doesReading rfl rfl hcpu⟩

/-- RTS pulls what memory holds above S, where the stack is memory. -/
theorem returnFromSubroutine_cpu_of_memory {s : State} (hd : s.NoDma) (hm : s.StackIsMemory) :
    (returnFromSubroutine s).cpu = { s.cpu with
      sp := s.sp + 2, pc := joinBytes (s.peek (stackAddr (s.sp + 2))) (s.peek (stackAddr (s.sp + 1))) + 1 } := by
  obtain ⟨top, lo, hi, unused, reads, hcpu⟩ := makesReads_returnFromSubroutine s
  have hlo : lo = s.peek (stackAddr (s.sp + 1)) := reads.memory hd (stackAddr (s.sp + 1), lo) (by simp) (hm _)
  have hhi : hi = s.peek (stackAddr (s.sp + 2)) := reads.memory hd (stackAddr (s.sp + 2), hi) (by simp) (hm _)
  rw [hcpu, hlo, hhi]

/-- Settles O43: the two bytes that RTS pulls are those that JSR has pushed. -/
theorem rtsReturnsBehindTheJsr : Obligations.RtsReturnsBehindTheJsr := by
  intro s t u w hd hram ht hu
  cases ht
  cases hu
  obtain ⟨high, low⟩ := callSubroutine_peek_stack hd (loByte w)
  have hcpu := callSubroutine_cpu (loByte w) s
  have hcfg : (callSubroutine (loByte w) s).cfg = s.cfg := congrArg Cpu.cfg hcpu
  have hsp : (callSubroutine (loByte w) s).sp = s.sp - 2 := congrArg Cpu.sp hcpu
  have hstack : (callSubroutine (loByte w) s).StackIsMemory := fun k =>
    (isMemory_iff_of_cfg hcfg (stackAddr k)).mpr (.inl (hram k))
  have above : s.sp - 2 + 1 = s.sp - 1 := by bv_omega
  have atTop : s.sp - 2 + 2 = s.sp := by bv_omega
  have behind : s.pc - 1 + 1 = s.pc := by bv_omega
  rw [returnFromSubroutine_cpu_of_memory (callSubroutine_noDma hd _) hstack, hsp, above, atTop, high (hram _),
    low (hram _), joinBytes_hi_lo, behind, hcpu]
  rfl

end Sys2Proof.Machine
end

section
/-! PROOFS. The stack, flag and system instructions (45_stack_flag_system.md R200 to R213): what each pushes or pulls,
which flags it writes, and that it changes nothing else. -/

namespace Sys2Proof.Machine

/-! ## Flags and the interrupt mask -/

/-- An instruction that writes P alone does no more than that. -/
theorem does_setP {i : Instr} {words : List Byte} {s : State} {v : Flags} (hw : encode i = words)
    (he : exec i s = .next (s.setP v)) : Does i words s { s.cpu with p := v } :=
  does_of_readsOnly (.refl s) hw he (s.setP_cpu v) (s.setP_peek v)

/-- Settles O46: five writes of P, each in one flag, and NOP, which leaves the state as it is. -/
theorem flagInstructionsSetOneFlag : Obligations.FlagInstructionsSetOneFlag := fun s =>
  ⟨does_setP rfl rfl, does_setP rfl rfl, does_setP rfl rfl, does_setP rfl rfl, does_setP rfl rfl,
    does_of_readsOnly (.refl s) rfl rfl rfl fun _ => rfl⟩

/-- Writing the mask with a note of the one before it (60_exceptions.md R226). -/
theorem does_setMask {i : Instr} {words : List Byte} {s : State} {b : Bool} (hw : encode i = words)
    (he : exec i s = .next ((s.setP { s.p with i := b }).setOldI (some s.p.i))) :
    Does i words s { s.cpu with p := { s.p with i := b }, oldI := some s.p.i } :=
  does_of_readsOnly (.refl s) hw he (by rw [State.setOldI_cpu, State.setP_cpu])
    fun addr => by rw [State.setOldI_peek, State.setP_peek]

/-- Settles O47: CLI and SEI differ in the mask they write. -/
theorem cliAndSeiWriteTheMask : Obligations.CliAndSeiWriteTheMask := fun _ =>
  ⟨does_setMask rfl rfl, does_setMask rfl rfl⟩

/-! ## Pushes -/

/-- P as the byte that PHP pushes, bit by bit (00_scope.md R10). -/
theorem packP_toNat (p : Flags) (b : Bool) :
    (packP p b).toNat = 128 * p.n.toNat + 64 * p.v.toNat + 32 + 16 * b.toNat + 8 * p.d.toNat + 4 * p.i.toNat +
      2 * p.z.toNat + p.c.toNat := by
  have bits : packP p b =
      (((((((BitVec.ofBool p.n).concat p.v).concat true).concat b).concat p.d).concat p.i).concat p.z).concat p.c := rfl
  simp only [bits, BitVec.toNat_concat, BitVec.toNat_ofBool, Bool.toNat_true]
  omega

/-- A push is one write cycle, one byte of page one, and a move of S (10_state.md R23). -/
theorem pushes_of_exec {i : Instr} {word : Byte} {s : State} {v : Byte} (hw : encode i = [word])
    (he : exec i s = .next (push v s)) : Pushes i word s v := by
  refine ⟨hw, _, he, push_cpu v s, push_trace v s, fun ram => ?_, fun _ addr other => ?_⟩
  · rw [push_peek, if_pos ⟨rfl, ram⟩]
  · rw [push_peek, if_neg fun h => other h.1]

/-- Settles O44: two pushes, and the byte of PHP as a sum of its bits. -/
theorem pushesStoreAndMoveTheStackPointer : Obligations.PushesStoreAndMoveTheStackPointer := by
  intro s v
  have status : packP s.p true = BitVec.ofNat 8 v :=
    calc packP s.p true
      _ = BitVec.ofNat 8 (packP s.p true).toNat := by rw [BitVec.ofNat_toNat, BitVec.setWidth_eq]
      _ = BitVec.ofNat 8 v := by rw [packP_toNat, Bool.toNat_true]
  exact ⟨stackAddr_toNat s.sp, pushes_of_exec rfl rfl, pushes_of_exec rfl (status ▸ rfl)⟩

/-! ## Pulls -/

theorem makesReads_setP (s : State) (v : Flags) : MakesReads s [] (s.setP v) := makesReads_none rfl rfl rfl

theorem makesReads_setOldI (s : State) (v : Option Bool) : MakesReads s [] (s.setOldI v) := makesReads_none rfl rfl rfl

theorem makesReads_loadA (s : State) (v : Byte) : MakesReads s [] (s.loadA v) := makesReads_none rfl rfl rfl

/-- The first pull of an instruction comes after the discarded read of the stack top (20_memory.md R58 d). -/
theorem makesReads_pull_peekStack (s : State) :
    MakesReads s [(stackAddr s.sp, (memRead (stackAddr s.sp) s).1), (stackAddr (s.sp + 1), (pull (peekStack s)).1)]
      (pull (peekStack s)).2 := by
  have pulled := makesReads_pull (peekStack s)
  rw [peekStack_sp] at pulled
  exact (makesReads_peekStack s).trans pulled

/-- P pulled, with which both PLP and RTI begin (45_stack_flag_system.md R203, R213). -/
def statusPulled (s : State) : State := (pull (peekStack s)).2.setP (unpackP (pull (peekStack s)).1)

theorem pullStatus_eq (s : State) : pullStatus s = (statusPulled s).setOldI (some s.p.i) := rfl

theorem returnFromTrap_eq (s : State) : returnFromTrap s =
    (pull (pull (statusPulled s)).2).2.setPc
      (joinBytes (pull (pull (statusPulled s)).2).1 (pull (statusPulled s)).1) := rfl

theorem statusPulled_cpu (s : State) :
    (statusPulled s).cpu = { s.cpu with sp := s.sp + 1, p := unpackP (pull (peekStack s)).1 } := by
  rw [statusPulled, State.setP_cpu, pull_cpu, peekStack_cpu, peekStack_sp]

theorem statusPulled_sp (s : State) : (statusPulled s).sp = s.sp + 1 := congrArg Cpu.sp (statusPulled_cpu s)

theorem pullStatus_cpu (s : State) : (pullStatus s).cpu =
    { s.cpu with sp := s.sp + 1, p := unpackP (pull (peekStack s)).1, oldI := some s.p.i } := by
  rw [pullStatus_eq, State.setOldI_cpu, statusPulled_cpu]

theorem makesReads_statusPulled (s : State) :
    MakesReads s [(stackAddr s.sp, (memRead (stackAddr s.sp) s).1), (stackAddr (s.sp + 1), (pull (peekStack s)).1)]
      (statusPulled s) := (makesReads_pull_peekStack s).trans (makesReads_setP _ _)

theorem loadIntoA_pull_cpu (s : State) : (loadIntoA (pull (peekStack s))).cpu =
    { s.cpu with sp := s.sp + 1, a := (pull (peekStack s)).1, p := withNZ s.p (pull (peekStack s)).1 } := by
  rw [loadIntoA, loadA_cpu, pull_cpu, peekStack_cpu, peekStack_sp, pull_p, peekStack_p, setNZ_eq_withNZ]

/-- Settles O45: PLA and PLP make the same two read cycles, and differ in what they do with the byte. -/
theorem pullsLoadAAndTheFlags : Obligations.PullsLoadAAndTheFlags := by
  intro s
  constructor
  · have reads := (makesReads_pull_peekStack s).trans (makesReads_loadA _ (pull (peekStack s)).1)
    exact ⟨_, _, reads.doesReading rfl rfl (loadIntoA_pull_cpu s)⟩
  · have reads := (makesReads_statusPulled s).trans (makesReads_setOldI _ (some s.p.i))
    rw [← pullStatus_eq] at reads
    exact ⟨_, _, reads.doesReading rfl rfl (pullStatus_cpu s)⟩

/-! ## RTI -/

/-- The read cycles of RTI, and the processor after them (45_stack_flag_system.md R213). -/
theorem makesReads_returnFromTrap (s : State) :
    ∃ top m lo hi,
      MakesReads s [(stackAddr s.sp, top), (stackAddr (s.sp + 1), m), (stackAddr (s.sp + 2), lo),
        (stackAddr (s.sp + 3), hi)] (returnFromTrap s) ∧
      (returnFromTrap s).cpu = { s.cpu with sp := s.sp + 3, pc := joinBytes hi lo, p := unpackP m } := by
  have second : s.sp + 1 + 1 = s.sp + 2 := by bv_omega
  have third : s.sp + 2 + 1 = s.sp + 3 := by bv_omega
  have low := makesReads_pull (statusPulled s)
  have high := makesReads_pull (pull (statusPulled s)).2
  rw [statusPulled_sp, second] at low
  rw [pull_sp, statusPulled_sp, second, third] at high
  have pulled := (makesReads_statusPulled s).trans (low.trans high)
  refine ⟨_, _, _, _, pulled.trans (makesReads_setPc _ _), ?_⟩
  rw [returnFromTrap_eq, State.setPc_cpu, pull_cpu, pull_cpu, statusPulled_cpu, pull_sp, statusPulled_sp, second, third]

/-- Settles O50: RTI is four read cycles and a move of S, P and PC. -/
theorem rtiRestoresPAndPC : Obligations.RtiRestoresPAndPC := by
  intro s
  obtain ⟨top, m, lo, hi, reads, hcpu⟩ := makesReads_returnFromTrap s
  exact ⟨top, m, lo, hi, reads.doesReading rfl rfl hcpu⟩

/-! ## BRK -/

/-- The three bytes that stacking a trap leaves, where they are RAM: no two are one byte of memory (60_exceptions.md
R230). -/
theorem stackTrap_peek_stack (b : Bool) (ret : Word) (s : State) :
    (s.IsRam (stackAddr s.sp) → (stackTrap b ret s).peek (stackAddr s.sp) = hiByte ret) ∧
    (s.IsRam (stackAddr (s.sp - 1)) → (stackTrap b ret s).peek (stackAddr (s.sp - 1)) = loByte ret) ∧
    (s.IsRam (stackAddr (s.sp - 2)) → (stackTrap b ret s).peek (stackAddr (s.sp - 2)) = packP s.p b) := by
  have apart {j k : Byte} (h : j ≠ k) : busAddr s.cfg.member (stackAddr j) ≠ busAddr s.cfg.member (stackAddr k) :=
    (busAddr_stackAddr_inj s.cfg.member).not.mpr h
  have first_second := apart (show s.sp ≠ s.sp - 1 by bv_omega)
  have first_third := apart (show s.sp ≠ s.sp - 2 by bv_omega)
  have second_third := apart (show s.sp - 1 ≠ s.sp - 2 by bv_omega)
  refine ⟨fun ram => ?_, fun ram => ?_, fun ram => ?_⟩
  · rw [stackTrap_peek, if_neg fun h => first_third h.1, if_neg fun h => first_second h.1, if_pos ⟨rfl, ram⟩]
  · rw [stackTrap_peek, if_neg fun h => second_third h.1, if_pos ⟨rfl, ram⟩]
  · rw [stackTrap_peek, if_pos ⟨rfl, ram⟩]

/-- Stacking a trap leaves every byte but those three alone. -/
theorem stackTrap_peek_other {b : Bool} {ret : Word} {s : State} {addr : Word}
    (h1 : busAddr s.cfg.member addr ≠ busAddr s.cfg.member (stackAddr s.sp))
    (h2 : busAddr s.cfg.member addr ≠ busAddr s.cfg.member (stackAddr (s.sp - 1)))
    (h3 : busAddr s.cfg.member addr ≠ busAddr s.cfg.member (stackAddr (s.sp - 2))) :
    (stackTrap b ret s).peek addr = s.peek addr := by
  rw [stackTrap_peek, if_neg fun h => h3 h.1, if_neg fun h => h2 h.1, if_neg fun h => h1 h.1]

/-- Stacking a trap and loading a vector leave what the statements say, of whichever vector: the pushes do not reach it,
so that its bytes are those memory held before (60_exceptions.md R230). -/
theorem trapTaken_loadVector (b : Bool) (ret : Word) (s : State) {vec : Word} (h0 : 0xFFFA ≤ vec.toNat)
    (h1 : 0xFFFA ≤ (vec + 1).toNat) :
    TrapTaken s.env.trace b ret vec id s (loadVector vec (stackTrap b ret s)) := by
  obtain ⟨lo, hi, hcpu, htrace, hvec⟩ := loadVector_cycles vec (stackTrap b ret s)
  refine ⟨lo, hi, ?_, ?_, fun hd => ?_⟩
  · rw [hcpu, stackTrap_cpu]; rfl
  · rw [htrace, stackTrap_trace, readCycle_stackTrap, readCycle_stackTrap, List.append_assoc]; rfl
  · have stackedNoDma := stackTrap_noDma (b := b) (ret := ret) hd
    obtain ⟨hlo, hhi⟩ := hvec stackedNoDma
    rw [stackTrap_isMemory, stackTrap_peek_vector b ret s h0] at hlo
    rw [stackTrap_isMemory, stackTrap_peek_vector b ret s h1] at hhi
    obtain ⟨high, low, status⟩ := stackTrap_peek_stack b ret s
    simp only [loadVector_peek stackedNoDma]
    exact ⟨hlo, hhi, high, low, status, fun _ => stackTrap_peek_other⟩

/-- With no NMI edge during it a trap goes through the IRQ vector (60_exceptions.md R230, R232). -/
theorem takeTrap_of_noEdge {b : Bool} {ret : Word} {s : State} (h : s.nmiEdgeDuring = false) :
    takeTrap b ret s = loadVector irqVector (stackTrap b ret s) := by
  rw [takeTrap_eq]
  exact if_neg (Bool.eq_false_iff.mp h)

/-- Settles O48: BRK is a trap through the vector at $FFFE. -/
theorem brkTakesTheTrapThroughTheIrqVector : Obligations.BrkTakesTheTrapThroughTheIrqVector := by
  intro s noEdge
  have trap := trapTaken_loadVector true (s.pc + 1) s (vec := irqVector) (by decide) (by decide)
  rw [← takeTrap_of_noEdge noEdge] at trap
  exact ⟨rfl, _, rfl, trap⟩

end Sys2Proof.Machine
end

section
/-! PROOFS. Exceptions (60_exceptions.md R221 to R238): what a boundary recognises, what an instruction fetched there and
an IRQ or NMI sequence taken there do, how RTI undoes a trap, and that nothing but an undefined opcode stops the machine. -/

namespace Sys2Proof.Machine

/-! ## Recognition -/

/-- RDY is seen low on a member with the pin only (00_scope.md R5). -/
theorem rdySeenHigh_eq_false_iff (s : State) :
    rdySeenHigh s = false ↔ hasRdy s.cfg.member = true ∧ s.env.now.rdyLow = true := by
  rw [rdySeenHigh, Bool.not_eq_false', Bool.and_eq_true]

/-- The mask examined at a boundary: I, or the I that CLI, SEI or PLP replaced (60_exceptions.md R226). -/
def maskExamined (s : State) : Bool :=
  if s.env.now.useOldMask then (match s.oldI with | some i => i | none => s.p.i) else s.p.i

theorem maskSeenClear_eq_not_maskExamined (s : State) : maskSeenClear s = !maskExamined s := by
  rw [maskSeenClear, maskExamined]
  cases s.oldI <;> rfl

/-- Settles O54: the tests of the recognition rule one after the other, each answered before the next is looked at. -/
theorem recognitionFollowsThePriority : Obligations.RecognitionFollowsThePriority := by
  intro s x ready masked
  have rdy := rdySeenHigh_eq_false_iff s
  have mask : maskSeenClear s = !masked := maskSeenClear_eq_not_maskExamined s
  cases hres : x.resLow with
  | true => simp [recognise, ready, x, hres]
  | false =>
  cases hreset : s.inReset with
  | true => simp [recognise, ready, x, hres, hreset]
  | false =>
  cases hrdy : rdySeenHigh s with
  | false => simp [recognise, ready, x, hres, hreset, hrdy, rdy.mp hrdy]
  | true =>
  have notHalted : ¬ (hasRdy s.cfg.member = true ∧ x.rdyLow = true) := rdy.not.mp (by rw [hrdy]; decide)
  have isReady : ready := ⟨hres, hreset, notHalted⟩
  cases hnmi : s.nmiPending with
  | true => simp [recognise, x, hres, hreset, hrdy, hnmi, notHalted, isReady]
  | false =>
  cases hirq : x.irqLow with
  | false => simp [recognise, x, hres, hreset, hrdy, hnmi, hirq, notHalted, isReady]
  | true =>
  cases hmask : masked with
  | false => simp [recognise, x, hres, hreset, hrdy, hnmi, hirq, mask, hmask, notHalted, isReady]
  | true => simp [recognise, x, hres, hreset, hrdy, hnmi, hirq, mask, hmask, notHalted, isReady]

/-! ## The instruction fetched at a boundary -/

/-- Settles O8. -/
theorem everyInstructionCompletes : Obligations.EveryInstructionCompletes := by
  intro i s
  obtain ⟨t, he, -⟩ := exec_keeps i s
  exact ⟨t, he⟩

/-- Settles O7, boundary by boundary: only a fetch can fail, since every instruction completes, and it fails at a byte
that is no opcode (`fetch_error`). -/
theorem stepStopsOnlyAtAnUndefinedOpcode : Obligations.StepStopsOnlyAtAnUndefinedOpcode := by
  intro s
  cases hb : recognise s.sampled with
  | held => exact .inl ⟨_, step_held hb⟩
  | reset => exact .inl ⟨_, step_reset hb⟩
  | halted => exact .inl ⟨_, step_halted hb⟩
  | nmi => exact .inl ⟨_, step_nmi hb⟩
  | irq => exact .inl ⟨_, step_irq hb⟩
  | instruction =>
    cases hf : fetch s.sampled with
    | ok r =>
      obtain ⟨t, he⟩ := everyInstructionCompletes r.1 (r.2.setOldI none)
      exact .inl ⟨_, step_instruction hb hf he⟩
    | error e =>
      obtain ⟨rfl, undefined⟩ := fetch_error hf
      exact .inr ⟨_, (opcodeLength_eq_none_iff _).mp undefined, rfl, rfl, step_undefined hb hf⟩

theorem fetchCycles_eq_three_iff (i : Instr) : fetchCycles i = 3 ↔ instrLength i = 3 ∧ opcode i ≠ opcode (.jsr 0) := by
  by_cases h : instrLength i = 3 ∧ opcode i ≠ opcode (.jsr 0)
  · exact iff_of_true (if_pos h) h
  · exact iff_of_false (by rw [fetchCycles, if_neg h]; decide) h

/-- Where no line asks for anything, an instruction is fetched (60_exceptions.md R226, case 4). -/
theorem recognise_of_idle {s : State} (hnow : s.env.now = Sample.idle) (hnmi : s.nmiPending = false)
    (hreset : s.inReset = false) : recognise s = .instruction := by
  simp [recognise, rdySeenHigh, hnow, Sample.idle, hnmi, hreset]

/-- A step with no edge in it that fetches an instruction is that instruction run. -/
theorem step_eq_exec {s u : State} {i : Instr} (hb : recognise s.sampled = .instruction)
    (hedge : s.sampled.NoEdgeDuring) (hf : fetch s.sampled = .ok (i, u)) : step s = exec i (u.setOldI none) := by
  obtain ⟨t, he⟩ := everyInstructionCompletes i (u.setOldI none)
  rw [step_instruction hb hf he, afterStep_of_noEdge hedge, he]

/-- Settles O5: the sample is idle, the fetch reads memory (`fetch_memory`), and no edge comes after it. -/
theorem stepRunsTheDecodedInstruction : Obligations.StepRunsTheDecodedInstruction := by
  rintro s i ⟨noSamples, hnmi, hreset⟩ hd h0 h1 h2 hdec cycle
  have idle := sampled_of_no_samples noSamples
  have fetched := (congrArg fetch idle).trans (fetch_memory hd h0 h1 h2 hdec)
  have hb : recognise s.sampled = .instruction := by rw [idle]; exact recognise_of_idle rfl hnmi hreset
  have hedge : s.sampled.NoEdgeDuring := by rw [idle]; exact ⟨rfl, rfl, rfl⟩
  rw [step_eq_exec hb hedge fetched]
  simp only [fetchCycles_eq_three_iff]
  rfl

/-! ## The IRQ and NMI sequences -/

section
variable {start : List BusCycle} {b : Bool} {ret vec : Word} {hidden : Cpu → Cpu} {u t : State}

/-- Read cycles before a trap make no difference to what it leaves behind. -/
theorem TrapTaken.after {v : State} (reads : ReadsOnly u v) (trap : TrapTaken start b ret vec hidden v t) :
    TrapTaken start b ret vec hidden u t := by
  obtain ⟨lo, hi, hcpu, htrace, hmem⟩ := trap
  rw [reads.cpu, reads.sp, reads.p] at hcpu
  rw [reads.sp, reads.p] at htrace
  simp only [reads.readCycle, reads.writeCycle] at htrace
  refine ⟨lo, hi, hcpu, htrace, fun hd => ?_⟩
  have mem := hmem (reads.noDma hd)
  simp only [reads.isMemory, reads.isRam, reads.peek hd, reads.cfg, reads.sp, reads.p] at mem
  exact mem

/-- What follows a trap without a bus cycle adds to what the trap does besides. -/
theorem TrapTaken.andThen {more : Cpu → Cpu} {t' : State} (trap : TrapTaken start b ret vec hidden u t)
    (hcpu : t'.cpu = more t.cpu) (htrace : t'.env.trace = t.env.trace) (hpeek : ∀ addr, t'.peek addr = t.peek addr) :
    TrapTaken start b ret vec (fun c => more (hidden c)) u t' := by
  obtain ⟨lo, hi, trapCpu, trapTrace, mem⟩ := trap
  refine ⟨lo, hi, hcpu.trans (congrArg more trapCpu), htrace.trans trapTrace, fun hd => ?_⟩
  simp only [hpeek]
  exact mem hd

theorem TrapTaken.setOldI (trap : TrapTaken start b ret vec hidden u t) (o : Option Bool) :
    TrapTaken start b ret vec (fun c => { hidden c with oldI := o }) u (t.setOldI o) :=
  trap.andThen (more := fun c => { c with oldI := o }) (t.setOldI_cpu o) rfl (t.setOldI_peek o)

theorem TrapTaken.setNmiPending (trap : TrapTaken start b ret vec hidden u t) (v : Bool) :
    TrapTaken start b ret vec (fun c => { hidden c with nmiPending := v }) u (t.setNmiPending v) :=
  trap.andThen (more := fun c => { c with nmiPending := v }) (t.setNmiPending_cpu v) rfl (t.setNmiPending_peek v)

end

theorem useUpNmi_p (s : State) : (useUpNmi s).p = s.p := rfl

theorem setP_useUpNmi (s : State) (v : Flags) : (useUpNmi s).setP v = useUpNmi (s.setP v) := rfl

/-- `useUpNmi` touches two latches, which no write cycle looks at. -/
theorem push_useUpNmi (v : Byte) (s : State) : push v (useUpNmi s) = useUpNmi (push v s) := by
  have poke (n : Nat) : (useUpNmi s).poke n v = useUpNmi (s.poke n v) := by
    unfold State.poke
    rw [useUpNmi_cfg]
    split <;> rfl
  rw [push, memWrite, useUpNmi_cfg, poke]
  rfl

theorem stackTrap_useUpNmi (b : Bool) (ret : Word) (s : State) :
    stackTrap b ret (useUpNmi s) = useUpNmi (stackTrap b ret s) := by
  simp only [stackTrap, push_useUpNmi, useUpNmi_p, setP_useUpNmi]

/-- With an NMI edge during it a BRK or an IRQ sequence goes through the NMI vector and uses the edge up
(60_exceptions.md R232, outcome b). The edge could as well be used up before the stacking. -/
theorem trapTaken_takeTrap_of_edge {b : Bool} {ret : Word} {s : State} (h : s.nmiEdgeDuring = true) :
    TrapTaken s.env.trace b ret nmiVector
      (fun c => { c with nmiPending := false, now := { c.now with nmiDuring := false } }) s (takeTrap b ret s) := by
  have e : takeTrap b ret s = loadVector nmiVector (stackTrap b ret (useUpNmi s)) := by
    rw [takeTrap_eq, stackTrap_useUpNmi]; exact if_pos h
  rw [e]
  exact trapTaken_loadVector b ret (useUpNmi s) (vec := nmiVector) (by decide) (by decide)

/-- With none it goes through its own vector. -/
theorem trapTaken_takeTrap_of_noEdge {b : Bool} {ret : Word} {s : State} (h : s.nmiEdgeDuring = false) :
    TrapTaken s.env.trace b ret irqVector id s (takeTrap b ret s) := by
  rw [takeTrap_of_noEdge h]
  exact trapTaken_loadVector b ret s (vec := irqVector) (by decide) (by decide)

/-- The first two cycles of a sequence leave alone whether an NMI edge comes during it. -/
theorem sequenceStart_nmiEdgeDuring (s : State) : (sequenceStart s).nmiEdgeDuring = s.nmiEdgeDuring := by
  have reads := sequenceStart_readsOnly s
  rw [State.nmiEdgeDuring, reads.cfg, reads.now]; rfl

theorem trapTaken_irqSequence_of_noEdge {s : State} (h : s.nmiEdgeDuring = false) :
    TrapTaken (sequenceStart s).env.trace false s.pc irqVector (fun c => { c with oldI := none }) s (irqSequence s) := by
  rw [irqSequence]
  have trap := trapTaken_takeTrap_of_noEdge (b := false) (ret := s.pc) ((sequenceStart_nmiEdgeDuring s).trans h)
  exact (trap.after (sequenceStart_readsOnly s)).setOldI none

theorem trapTaken_irqSequence_of_edge {s : State} (h : s.nmiEdgeDuring = true) :
    TrapTaken (sequenceStart s).env.trace false s.pc nmiVector
      (fun c => { c with nmiPending := false, oldI := none, now := { c.now with nmiDuring := false } }) s
      (irqSequence s) := by
  rw [irqSequence]
  have trap := trapTaken_takeTrap_of_edge (b := false) (ret := s.pc) ((sequenceStart_nmiEdgeDuring s).trans h)
  exact (trap.after (sequenceStart_readsOnly s)).setOldI none

theorem trapTaken_nmiSequence (s : State) :
    TrapTaken (sequenceStart s).env.trace false s.pc nmiVector (fun c => { c with nmiPending := false, oldI := none }) s
      (nmiSequence s) := by
  rw [nmiSequence]
  have trap := trapTaken_loadVector false s.pc (sequenceStart s) (vec := nmiVector) (by decide) (by decide)
  exact ((trap.after (sequenceStart_readsOnly s)).setNmiPending false).setOldI none

/-! ## The step that takes a trap -/

/-- What the NMI and S.O. edges that come during a step from `s` make of the processor at its end. -/
def State.withEdgesDuring (s : State) (c : Cpu) : Cpu :=
  { c with nmiPending := c.nmiPending || (s.nmiEdgeDuring && c.now.nmiDuring), p := s.withSoDuring c.p }

theorem afterStep_cpu_of_noRes {s t : State} (h : s.env.now.resDuring = none) (hcfg : t.cfg = s.cfg) :
    (afterStep s t).cpu = s.withEdgesDuring t.cpu := by
  have latch : (s.env.now.nmiDuring && t.env.now.nmiDuring && hasNmi s.cfg.member) =
      (s.nmiEdgeDuring && t.env.now.nmiDuring) := by
    rw [State.nmiEdgeDuring, Bool.and_right_comm, Bool.and_comm s.env.now.nmiDuring]
  rw [afterStep_of_noRes h, hcfg, latch]
  rfl

/-- With no NMI edge during the step, S.O. is all that counts. -/
theorem withEdgesDuring_of_noEdge {s : State} (h : s.nmiEdgeDuring = false) (c : Cpu) :
    s.withEdgesDuring c = { c with p := s.withSoDuring c.p } := by
  simp only [State.withEdgesDuring, h, Bool.false_and, Bool.or_false]

/-- So it is where a sequence has used the edge up. -/
theorem withEdgesDuring_of_usedUp (s : State) {c : Cpu} (h : c.now.nmiDuring = false) :
    s.withEdgesDuring c = { c with p := s.withSoDuring c.p } := by
  simp only [State.withEdgesDuring, h, Bool.and_false, Bool.or_false]

/-- Where no NMI is pending any more and the step has left its sample alone, an edge during it is latched. -/
theorem withEdgesDuring_of_cleared {s : State} {c : Cpu} (hnmi : c.nmiPending = false) (hnow : c.now = s.env.now) :
    s.withEdgesDuring c = { c with nmiPending := s.nmiEdgeDuring, p := s.withSoDuring c.p } := by
  simp only [State.withEdgesDuring, State.nmiEdgeDuring, hnmi, hnow, Bool.false_or, Bool.and_assoc, Bool.and_self]

/-- A step that takes a trap: the cycles of the sequence, and what its hidden effect and the edges during it come to. -/
theorem step_trapTaken {s v : State} {vec : Word} {hidden post : Cpu → Cpu}
    (hstep : step s = .next (afterStep s.sampled v)) (hr : s.sampled.env.now.resDuring = none)
    (hcfg : v.cfg = s.sampled.cfg)
    (trap : TrapTaken (sequenceStart s.sampled).env.trace false s.sampled.pc vec hidden s.sampled v)
    (hpost : ∀ c : Cpu, c.now = s.sampled.env.now → s.sampled.withEdgesDuring (hidden c) = post c) :
    ∃ t x y, step s = .next t ∧
      TrapTaken [readCycle s.sampled s.sampled.pc x, readCycle s.sampled s.sampled.pc y] false s.sampled.pc vec post
        s.sampled t := by
  obtain ⟨x, y, start⟩ := sequenceStart_trace s.sampled
  rw [sampled_trace, List.nil_append] at start
  obtain ⟨lo, hi, hcpu, htrace, mem⟩ := start ▸ trap
  have after := afterStep_of_noRes hr v
  refine ⟨_, x, y, hstep, lo, hi, ?_, ?_, ?_⟩
  · rw [afterStep_cpu_of_noRes hr hcfg, hcpu]
    exact hpost _ rfl
  · rw [after]; exact htrace
  · rw [after]; exact mem

/-- Settles O55: with no NMI edge the edges during the step come to that of S.O. -/
theorem irqStepTakesTheTrap : Obligations.IrqStepTakesTheTrap := by
  intro s u hb hr noEdge
  exact step_trapTaken (step_irq hb) hr (keeps_irqSequence u).cfg (trapTaken_irqSequence_of_noEdge noEdge)
    fun _ _ => withEdgesDuring_of_noEdge noEdge _

/-- Settles O56: the latch is cleared, and then holds an edge of the step itself. -/
theorem nmiStepTakesTheTrapAndClearsTheLatch : Obligations.NmiStepTakesTheTrapAndClearsTheLatch := by
  intro s u hb hr
  exact step_trapTaken (step_nmi hb) hr (keeps_nmiSequence u).cfg (trapTaken_nmiSequence u)
    fun _ hnow => withEdgesDuring_of_cleared rfl hnow

/-- Settles O49: BRK by itself, and an IRQ sequence within its step, at whose end no NMI edge is left. -/
theorem nmiEdgeDuringBrkTakesItsVector : Obligations.NmiEdgeDuringBrkTakesItsVector := by
  refine ⟨fun s edge => ⟨_, rfl, trapTaken_takeTrap_of_edge edge⟩, ?_⟩
  intro s u hb hr edge
  exact step_trapTaken (step_irq hb) hr (keeps_irqSequence u).cfg (trapTaken_irqSequence_of_edge edge)
    fun _ _ => withEdgesDuring_of_usedUp u rfl

/-! ## RTI after a trap -/

/-- What a trap does besides (`TrapTaken`) leaves A, X, Y, S and the platform alone. -/
def KeepsRegisters (hidden : Cpu → Cpu) : Prop :=
  ∀ c, (hidden c).a = c.a ∧ (hidden c).x = c.x ∧ (hidden c).y = c.y ∧ (hidden c).sp = c.sp ∧ (hidden c).cfg = c.cfg

/-- Execution in `u` goes on at `pc` with the registers and flags of `s`. -/
def Resumed (s u : State) (pc : Word) : Prop :=
  u.pc = pc ∧ u.p = s.p ∧ u.sp = s.sp ∧ u.a = s.a ∧ u.x = s.x ∧ u.y = s.y

/-- RTI pulls what memory holds above S, where the stack is memory. -/
theorem returnFromTrap_cpu_of_memory {s : State} (hd : s.NoDma) (hm : s.StackIsMemory) :
    (returnFromTrap s).cpu = { s.cpu with
      sp := s.sp + 3
      pc := joinBytes (s.peek (stackAddr (s.sp + 3))) (s.peek (stackAddr (s.sp + 2)))
      p := unpackP (s.peek (stackAddr (s.sp + 1))) } := by
  obtain ⟨top, m, lo, hi, reads, hcpu⟩ := makesReads_returnFromTrap s
  have hp : m = s.peek (stackAddr (s.sp + 1)) := reads.memory hd (stackAddr (s.sp + 1), m) (by simp) (hm _)
  have hlo : lo = s.peek (stackAddr (s.sp + 2)) := reads.memory hd (stackAddr (s.sp + 2), lo) (by simp) (hm _)
  have hhi : hi = s.peek (stackAddr (s.sp + 3)) := reads.memory hd (stackAddr (s.sp + 3), hi) (by simp) (hm _)
  rw [hcpu, hp, hlo, hhi]

/-- The three bytes that RTI pulls after a trap are those the trap has stacked (60_exceptions.md R234). -/
theorem TrapTaken.resumed {start : List BusCycle} {b : Bool} {ret vec : Word} {hidden : Cpu → Cpu} {s t : State}
    (trap : TrapTaken start b ret vec hidden s t) (keeps : KeepsRegisters hidden) (hd : s.NoDma) (hdt : t.NoDma)
    (hram : s.StackIsRam) : Resumed s (returnFromTrap t) ret := by
  obtain ⟨lo, hi, hcpu, -, mem⟩ := trap
  obtain ⟨-, -, high, low, status, -⟩ := mem hd
  obtain ⟨ha, hx, hy, hsp, hcfg⟩ := keeps
    { s.cpu with sp := s.sp - 3, p := { s.p with i := true }, pc := joinBytes hi lo }
  rw [← hcpu] at ha hx hy hsp hcfg
  replace hsp : t.sp = s.sp - 3 := hsp
  have stack : t.StackIsMemory := fun k => (isMemory_iff_of_cfg hcfg (stackAddr k)).mpr (.inl (hram k))
  have first : t.sp + 1 = s.sp - 2 := by rw [hsp]; bv_omega
  have second : t.sp + 2 = s.sp - 1 := by rw [hsp]; bv_omega
  have third : t.sp + 3 = s.sp := by rw [hsp]; bv_omega
  have pulled := returnFromTrap_cpu_of_memory hdt stack
  rw [first, second, third, high (hram _), low (hram _), status (hram _), joinBytes_hi_lo, unpackP_packP] at pulled
  exact ⟨congrArg Cpu.pc pulled, congrArg Cpu.p pulled, congrArg Cpu.sp pulled,
    (congrArg Cpu.a pulled).trans ha, (congrArg Cpu.x pulled).trans hx, (congrArg Cpu.y pulled).trans hy⟩

theorem loadVector_noDma {vec : Word} {s : State} (h : s.NoDma) : (loadVector vec s).NoDma :=
  (loadVector_readsOnly vec s).noDma h

theorem takeTrap_noDma {b : Bool} {ret : Word} {s : State} (h : s.NoDma) : (takeTrap b ret s).NoDma := by
  rw [takeTrap_eq]
  split
  · exact loadVector_noDma (useUpNmi_noDma (stackTrap_noDma h))
  · exact loadVector_noDma (stackTrap_noDma h)

theorem irqSequence_noDma {s : State} (h : s.NoDma) : (irqSequence s).NoDma := by
  rw [State.NoDma, irqSequence, State.setOldI_env]
  exact takeTrap_noDma ((sequenceStart_readsOnly s).noDma h)

theorem nmiSequence_noDma {s : State} (h : s.NoDma) : (nmiSequence s).NoDma := by
  rw [State.NoDma, nmiSequence, State.setOldI_env, State.setNmiPending_env]
  exact loadVector_noDma (stackTrap_noDma ((sequenceStart_readsOnly s).noDma h))

/-- RTI undoes a BRK, or the trap of an IRQ sequence, through whichever vector it went. -/
theorem takeTrap_resumed {b : Bool} {ret : Word} {s : State} (hd : s.NoDma) (hram : s.StackIsRam) :
    Resumed s (returnFromTrap (takeTrap b ret s)) ret := by
  cases edge : s.nmiEdgeDuring with
  | true =>
    exact (trapTaken_takeTrap_of_edge edge).resumed (fun _ => ⟨rfl, rfl, rfl, rfl, rfl⟩) hd (takeTrap_noDma hd) hram
  | false =>
    exact (trapTaken_takeTrap_of_noEdge edge).resumed (fun _ => ⟨rfl, rfl, rfl, rfl, rfl⟩) hd (takeTrap_noDma hd) hram

/-- RTI undoes an IRQ sequence, through whichever vector it went. -/
theorem irqSequence_resumed {s : State} (hd : s.NoDma) (hram : s.StackIsRam) :
    Resumed s (returnFromTrap (irqSequence s)) s.pc := by
  cases edge : s.nmiEdgeDuring with
  | true =>
    exact (trapTaken_irqSequence_of_edge edge).resumed (fun _ => ⟨rfl, rfl, rfl, rfl, rfl⟩) hd (irqSequence_noDma hd)
      hram
  | false =>
    exact (trapTaken_irqSequence_of_noEdge edge).resumed (fun _ => ⟨rfl, rfl, rfl, rfl, rfl⟩) hd (irqSequence_noDma hd)
      hram

/-- RTI undoes an NMI sequence. -/
theorem nmiSequence_resumed {s : State} (hd : s.NoDma) (hram : s.StackIsRam) :
    Resumed s (returnFromTrap (nmiSequence s)) s.pc :=
  (trapTaken_nmiSequence s).resumed (fun _ => ⟨rfl, rfl, rfl, rfl, rfl⟩) hd (nmiSequence_noDma hd) hram

/-- Settles O51: RTI after each of the three traps. -/
theorem rtiResumesWhereTheTrapWasTaken : Obligations.RtiResumesWhereTheTrapWasTaken := by
  intro s t u hd hram hu
  cases hu
  refine ⟨fun ht => ?_, fun ht => ?_, fun ht => ?_⟩
  · cases ht
    exact takeTrap_resumed hd hram
  · subst ht
    exact irqSequence_resumed hd hram
  · subst ht
    exact nmiSequence_resumed hd hram

/-! ## The old mask -/

/-- The noted old I is the same in both states. -/
def KeepsOldI (s t : State) : Prop := t.oldI = s.oldI

theorem KeepsOldI.trans {s t u : State} (h : KeepsOldI s t) (k : KeepsOldI t u) : KeepsOldI s u := Eq.trans k h

theorem SameCpu.keepsOldI {s t : State} (h : SameCpu s t) : KeepsOldI s t := h.oldI

theorem keepsOldI_of_cpu {s t : State} {c : Cpu} (hcpu : t.cpu = c) (h : c.oldI = s.oldI) : KeepsOldI s t :=
  (congrArg Cpu.oldI hcpu).trans h

theorem keepsOldI_readOperand (m : MemOperand) (s : State) : KeepsOldI s (readOperand m s).2 :=
  (readOperand_readsOnly m s).keepsOldI

theorem keepsOldI_storeOperand (m : MemOperand) (v : Byte) (s : State) : KeepsOldI s (storeOperand m v s) :=
  (storeOperand_sameCpu m v s).keepsOldI

theorem keepsOldI_modifyOperand (m : MemOperand) (f : Byte → Flags → Byte × Flags) (s : State) :
    KeepsOldI s (modifyOperand m f s) := keepsOldI_of_cpu (modifyOperand_cpu m f s) rfl

theorem keepsOldI_addToA (r : Byte × State) : KeepsOldI r.2 (addToA r) := by
  rw [addToA]; split <;> rfl

theorem keepsOldI_subFromA (r : Byte × State) : KeepsOldI r.2 (subFromA r) := by
  rw [subFromA]; split <;> rfl

theorem keepsOldI_branch (cond : Bool) (rel : Byte) (s : State) : KeepsOldI s (branch cond rel s) := by
  obtain ⟨t, reads, e⟩ := branch_readsOnly cond rel s
  rw [e]; exact reads.oldI

theorem keepsOldI_takeTrap (b : Bool) (ret : Word) (s : State) : KeepsOldI s (takeTrap b ret s) := by
  cases edge : s.nmiEdgeDuring with
  | true =>
    obtain ⟨_, _, hcpu, -⟩ := trapTaken_takeTrap_of_edge (b := b) (ret := ret) edge
    exact keepsOldI_of_cpu hcpu rfl
  | false =>
    obtain ⟨_, _, hcpu, -⟩ := trapTaken_takeTrap_of_noEdge (b := b) (ret := ret) edge
    exact keepsOldI_of_cpu hcpu rfl

/-- Every instruction but CLI, SEI and PLP leaves the noted old I alone. The cases are grouped by the operation the
meaning calls. -/
theorem exec_keepsOldI (i : Instr) (s : State) :
    ∃ t, exec i s = .next t ∧ (KeepsOldI s t ∨ opcode i ∈ ([0x58, 0x78, 0x28] : List Byte)) := by
  cases i with
  | cli | sei | plp => exact ⟨_, rfl, .inr (by decide)⟩
  | ldaImm | ldxImm | ldyImm | cmpImm | cpxImm | cpyImm | andImm | oraImm | eorImm
  | txa | tya | tax | tsx | tay | txs | inx | dex | iny | dey | aslAcc | lsrAcc | rolAcc | rorAcc
  | jmpAbs | clc | sec | cld | sed | clv | nop => exact ⟨_, rfl, .inl rfl⟩
  | ldaIndX | ldaZp | ldaAbs | ldaIndY | ldaZpX | ldaAbsY | ldaAbsX | ldxZp | ldxAbs | ldxZpY | ldxAbsY
  | ldyZp | ldyAbs | ldyZpX | ldyAbsX
  | cmpIndX | cmpZp | cmpAbs | cmpIndY | cmpZpX | cmpAbsY | cmpAbsX | cpxZp | cpxAbs | cpyZp | cpyAbs
  | andIndX | andZp | andAbs | andIndY | andZpX | andAbsY | andAbsX
  | oraIndX | oraZp | oraAbs | oraIndY | oraZpX | oraAbsY | oraAbsX
  | eorIndX | eorZp | eorAbs | eorIndY | eorZpX | eorAbsY | eorAbsX | bitZp | bitAbs =>
    exact ⟨_, rfl, .inl (keepsOldI_readOperand _ s)⟩
  | adcImm v => exact ⟨_, rfl, .inl (keepsOldI_addToA (v, s))⟩
  | adcIndX | adcZp | adcAbs | adcIndY | adcZpX | adcAbsY | adcAbsX =>
    exact ⟨_, rfl, .inl ((keepsOldI_readOperand _ s).trans (keepsOldI_addToA _))⟩
  | sbcImm v => exact ⟨_, rfl, .inl (keepsOldI_subFromA (v, s))⟩
  | sbcIndX | sbcZp | sbcAbs | sbcIndY | sbcZpX | sbcAbsY | sbcAbsX =>
    exact ⟨_, rfl, .inl ((keepsOldI_readOperand _ s).trans (keepsOldI_subFromA _))⟩
  | staIndX | staZp | staAbs | staIndY | staZpX | staAbsY | staAbsX | stxZp | stxAbs | stxZpY | styZp | styAbs
  | styZpX => exact ⟨_, rfl, .inl (keepsOldI_storeOperand _ _ s)⟩
  | incZp | incAbs | incZpX | incAbsX | decZp | decAbs | decZpX | decAbsX
  | aslZp | aslAbs | aslZpX | aslAbsX | lsrZp | lsrAbs | lsrZpX | lsrAbsX
  | rolZp | rolAbs | rolZpX | rolAbsX | rorZp | rorAbs | rorZpX | rorAbsX =>
    exact ⟨_, rfl, .inl (keepsOldI_modifyOperand _ _ s)⟩
  | bcc | bcs | beq | bne | bmi | bpl | bvc | bvs => exact ⟨_, rfl, .inl (keepsOldI_branch _ _ s)⟩
  | jmpInd => exact ⟨_, rfl, .inl (jumpPointer_readsOnly _ s).keepsOldI⟩
  | jsr => exact ⟨_, rfl, .inl (keepsOldI_of_cpu (callSubroutine_cpu _ s) rfl)⟩
  | rts => exact ⟨_, rfl, .inl (keepsOldI_of_cpu (returnFromSubroutine_readsOnly s).cpu rfl)⟩
  | pha | php => exact ⟨_, rfl, .inl (keepsOldI_of_cpu (push_cpu _ s) rfl)⟩
  | pla => exact ⟨_, rfl, .inl (keepsOldI_of_cpu (loadIntoA_pull_cpu s) rfl)⟩
  | brk => exact ⟨_, rfl, .inl (keepsOldI_takeTrap _ _ s)⟩
  | rti => exact ⟨_, rfl, .inl (keepsOldI_of_cpu (returnFromTrap_readsOnly s).cpu rfl)⟩

theorem irqSequence_oldI (s : State) : (irqSequence s).oldI = none := by rw [irqSequence, State.setOldI_oldI]

theorem nmiSequence_oldI (s : State) : (nmiSequence s).oldI = none := by rw [nmiSequence, State.setOldI_oldI]

theorem resetSequence_oldI (s : State) : (resetSequence s).oldI = none := by
  simp only [resetSequence, State.setOldI_oldI]

/-- Settles O60: an instruction runs with no old I noted, and each sequence ends with none. -/
theorem oldMaskCountsOnlyRightAfterCliSeiPlp : Obligations.OldMaskCountsOnlyRightAfterCliSeiPlp := by
  refine ⟨fun s s1 t i hf hrun hold => ?_, fun s => ⟨irqSequence_oldI s, nmiSequence_oldI s, resetSequence_oldI s⟩⟩
  have ran : exec i (s1.setOldI none) = .next t := by rwa [runInstruction, hf] at hrun
  obtain ⟨u, hu, h⟩ := exec_keepsOldI i (s1.setOldI none)
  cases hu.symm.trans ran
  exact h.resolve_left hold

end Sys2Proof.Machine
end

section
/-! PROOFS. Timing and reset: every instruction makes one bus access in every clock cycle of its count
(70_reset_and_hazards.md R273, R274), and what the reset sequence leaves behind (70_reset_and_hazards.md R260). -/

namespace Sys2Proof.Machine

/-! ## The cycles of an instruction -/

theorem cycles_addToA (r : Byte × State) : Cycles 0 r.2 (addToA r) := by
  rw [addToA]; split <;> exact Cycles.none rfl

theorem cycles_subFromA (r : Byte × State) : Cycles 0 r.2 (subFromA r) := by
  rw [subFromA]; split <;> exact Cycles.none rfl

theorem cycles_jumpIndirect (ptr : Word) (s : State) : Cycles 2 s (jumpIndirect ptr s) :=
  (cycles_memRead _ _).trans ((cycles_memRead _ _).trans (cycles_setPc _ _))

theorem cycles_callSubroutine (lo : Byte) (s : State) : Cycles 4 s (callSubroutine lo s) :=
  (cycles_peekStack s).trans <| (cycles_push _ _).trans <| (cycles_push _ _).trans <| (cycles_memRead _ _).trans <|
    cycles_setPc _ _

theorem cycles_returnFromSubroutine (s : State) : Cycles 4 s (returnFromSubroutine s) :=
  (cycles_peekStack s).trans <| (cycles_pull _).trans <| (cycles_pull _).trans <| (cycles_discardRead _ _).trans <|
    cycles_setPc _ _

/-- The stack top is read before every pull (20_memory.md R58 d). -/
theorem cycles_pull_peekStack (s : State) : Cycles 2 s (pull (peekStack s)).2 :=
  (cycles_peekStack s).trans (cycles_pull _)

theorem cycles_returnFromTrap (s : State) : Cycles 4 s (returnFromTrap s) :=
  (cycles_pull_peekStack s).trans <| (cycles_setP _ _).trans <| (cycles_pull _).trans <| (cycles_pull _).trans <|
    cycles_setPc _ _

/-- The meaning of the instruction `i` makes as many bus cycles in `s` as its fetch leaves of its clock cycles. -/
def MakesItsCycles (i : Instr) (s : State) : Prop :=
  ∃ t k, exec i s = .next t ∧ Cycles k s t ∧ fetchCycles i + k = cycles i s

/-- A load from an absolute address and an index: three cycles of fetch, and the operand's own. -/
theorem three_add_pageExtra (base : Word) (index : Byte) :
    3 + (pageExtra base index + 1) = 4 + pageExtra base index := by
  omega

/-- A load through a pointer and an index: two cycles of fetch, two of the pointer, and the operand's own. -/
theorem two_add_pageExtra (base : Word) (index : Byte) :
    2 + (2 + pageExtra base index + 1) = 5 + pageExtra base index := by
  omega

/-- The cases are grouped by the operation the meaning calls, and those of a load by whether a crossed page counts. -/
theorem makesItsCycles (i : Instr) (s : State) : MakesItsCycles i s := by
  cases i with
  | ldaImm | ldxImm | ldyImm | cmpImm | cpxImm | cpyImm | andImm | oraImm | eorImm
  | txa | tya | tax | tsx | tay | txs | inx | dex | iny | dey | aslAcc | lsrAcc | rolAcc | rorAcc
  | jmpAbs | clc | sec | cli | sei | cld | sed | clv | nop => exact ⟨_, 0, rfl, Cycles.none rfl, rfl⟩
  | ldaIndX | ldaZp | ldaAbs | ldaZpX | ldxZp | ldxAbs | ldxZpY | ldyZp | ldyAbs | ldyZpX
  | cmpIndX | cmpZp | cmpAbs | cmpZpX | cpxZp | cpxAbs | cpyZp | cpyAbs
  | andIndX | andZp | andAbs | andZpX | oraIndX | oraZp | oraAbs | oraZpX
  | eorIndX | eorZp | eorAbs | eorZpX | bitZp | bitAbs => exact ⟨_, _, rfl, cycles_readOperand _ s, rfl⟩
  | ldaAbsX | ldaAbsY | ldxAbsY | ldyAbsX | cmpAbsX | cmpAbsY | andAbsX | andAbsY | oraAbsX | oraAbsY
  | eorAbsX | eorAbsY => exact ⟨_, _, rfl, cycles_readOperand _ s, three_add_pageExtra _ _⟩
  | ldaIndY | cmpIndY | andIndY | oraIndY | eorIndY =>
    exact ⟨_, _, rfl, cycles_readOperand _ s, two_add_pageExtra _ _⟩
  | adcImm v => exact ⟨_, _, rfl, cycles_addToA (v, s), rfl⟩
  | adcIndX | adcZp | adcAbs | adcZpX =>
    exact ⟨_, _, rfl, (cycles_readOperand _ s).trans (cycles_addToA _), rfl⟩
  | adcAbsX | adcAbsY =>
    exact ⟨_, _, rfl, (cycles_readOperand _ s).trans (cycles_addToA _), three_add_pageExtra _ _⟩
  | adcIndY => exact ⟨_, _, rfl, (cycles_readOperand _ s).trans (cycles_addToA _), two_add_pageExtra _ _⟩
  | sbcImm v => exact ⟨_, _, rfl, cycles_subFromA (v, s), rfl⟩
  | sbcIndX | sbcZp | sbcAbs | sbcZpX =>
    exact ⟨_, _, rfl, (cycles_readOperand _ s).trans (cycles_subFromA _), rfl⟩
  | sbcAbsX | sbcAbsY =>
    exact ⟨_, _, rfl, (cycles_readOperand _ s).trans (cycles_subFromA _), three_add_pageExtra _ _⟩
  | sbcIndY => exact ⟨_, _, rfl, (cycles_readOperand _ s).trans (cycles_subFromA _), two_add_pageExtra _ _⟩
  | staIndX | staZp | staAbs | staIndY | staZpX | staAbsY | staAbsX | stxZp | stxAbs | stxZpY | styZp | styAbs
  | styZpX => exact ⟨_, _, rfl, cycles_storeOperand _ _ s, rfl⟩
  | incZp | incAbs | incZpX | incAbsX | decZp | decAbs | decZpX | decAbsX
  | aslZp | aslAbs | aslZpX | aslAbsX | lsrZp | lsrAbs | lsrZpX | lsrAbsX
  | rolZp | rolAbs | rolZpX | rolAbsX | rorZp | rorAbs | rorZpX | rorAbsX =>
    exact ⟨_, _, rfl, cycles_modifyOperand _ _ s, rfl⟩
  | bcc | bcs | beq | bne | bmi | bpl | bvc | bvs => exact ⟨_, _, rfl, cycles_branch _ _ s, rfl⟩
  | jmpInd => exact ⟨_, _, rfl, cycles_jumpIndirect _ s, rfl⟩
  | jsr => exact ⟨_, _, rfl, cycles_callSubroutine _ s, rfl⟩
  | rts => exact ⟨_, _, rfl, cycles_returnFromSubroutine s, rfl⟩
  | pha | php => exact ⟨_, _, rfl, cycles_push _ s, rfl⟩
  | pla | plp => exact ⟨_, _, rfl, cycles_pull_peekStack s, rfl⟩
  | brk => exact ⟨_, _, rfl, cycles_takeTrap _ _ s, rfl⟩
  | rti => exact ⟨_, _, rfl, cycles_returnFromTrap s, rfl⟩

/-- Settles O53: the table's count less the fetch is what the trace grows by (`makesItsCycles`). -/
theorem busCyclesAreTheCycleCounts : Obligations.BusCyclesAreTheCycleCounts := by
  intro i s t ht
  obtain ⟨u, k, hu, grows, count⟩ := makesItsCycles i s
  cases hu.symm.trans ht
  rw [grows, ← count]
  omega

/-! ## The reset sequence -/

theorem makesReads_sequenceStart (s : State) : ∃ x y, MakesReads s [(s.pc, x), (s.pc, y)] (sequenceStart s) :=
  ⟨_, _, (makesReads_discardRead s.pc s).trans (makesReads_discardRead s.pc _)⟩

theorem makesReads_loadVector (vec : Word) (s : State) :
    ∃ lo hi, MakesReads s [(vec, lo), (vec + 1, hi)] (loadVector vec s) ∧ (loadVector vec s).pc = joinBytes hi lo :=
  ⟨_, _, (makesReads_memRead vec s).trans ((makesReads_memRead (vec + 1) _).trans (makesReads_setPc _ _)), rfl⟩

/-- The reset sequence before it loads its vector: two reads at PC, and three of the stack downwards where a trap pushes
(70_reset_and_hazards.md R274). -/
def stackReadInReset (s : State) : State :=
  discardRead (stackAddr (s.sp - 2)) <| discardRead (stackAddr (s.sp - 1)) <| discardRead (stackAddr s.sp) <|
    sequenceStart s

/-- What the reset sequence makes of the registers and latches once its cycles are over (10_state.md R34, R39). -/
def resetRegisters (s : State) : State :=
  (((unspecifiedRegisters s).setNmiPending false).setInReset false).setOldI none

theorem resetSequence_eq (s : State) :
    resetSequence s = resetRegisters (loadVector resetVector (stackReadInReset s)) := rfl

theorem makesReads_stackReadInReset (s : State) :
    ∃ r1 r2 r3 r4 r5, MakesReads s [(s.pc, r1), (s.pc, r2), (stackAddr s.sp, r3), (stackAddr (s.sp - 1), r4),
      (stackAddr (s.sp - 2), r5)] (stackReadInReset s) := by
  obtain ⟨r1, r2, start⟩ := makesReads_sequenceStart s
  have top := makesReads_discardRead (stackAddr s.sp) (sequenceStart s)
  have second := makesReads_discardRead (stackAddr (s.sp - 1)) (discardRead (stackAddr s.sp) (sequenceStart s))
  exact ⟨r1, r2, _, _, _, start.trans (top.trans (second.trans (makesReads_discardRead (stackAddr (s.sp - 2)) _)))⟩

/-- Giving the registers any values takes free values from the environment, and makes no cycle. -/
theorem makesReads_resetRegisters (s : State) : MakesReads s [] (resetRegisters s) :=
  ⟨rfl, fun _ => rfl, id, (List.append_nil _).symm, fun _ _ hr => absurd hr List.not_mem_nil⟩

/-- The seven read cycles of the reset sequence, and PC from the last two (70_reset_and_hazards.md R260). -/
theorem makesReads_resetSequence (s : State) :
    ∃ lo hi r1 r2 r3 r4 r5,
      MakesReads s [(s.pc, r1), (s.pc, r2), (stackAddr s.sp, r3), (stackAddr (s.sp - 1), r4),
        (stackAddr (s.sp - 2), r5), (0xFFFC, lo), (0xFFFD, hi)] (resetSequence s) ∧
      (resetSequence s).pc = joinBytes hi lo := by
  obtain ⟨r1, r2, r3, r4, r5, stack⟩ := makesReads_stackReadInReset s
  obtain ⟨lo, hi, vector, hpc⟩ := makesReads_loadVector resetVector (stackReadInReset s)
  exact ⟨lo, hi, r1, r2, r3, r4, r5, stack.trans (vector.trans (makesReads_resetRegisters _)), hpc⟩

/-- The reset sequence leaves the sample of its step alone. -/
theorem resetSequence_now (s : State) : (resetSequence s).env.now = s.env.now := by
  show (loadVector resetVector (stackReadInReset s)).env.now = s.env.now
  simp only [(loadVector_readsOnly resetVector _).now, State.setPc_env, stackReadInReset, discardRead_env_now,
    sequenceStart]

/-- The edges during the reset step reach V and the NMI latch alone (10_state.md R34, R36). -/
theorem afterStep_resetSequence_cpu {s : State} (hr : s.env.now.resDuring = none) :
    (afterStep s (resetSequence s)).cpu = { (resetSequence s).cpu with
      nmiPending := s.nmiEdgeDuring
      p := s.withSoDuring (resetSequence s).p } := by
  have dropped : (resetSequence s).cpu.nmiPending = false := rfl
  rw [afterStep_cpu_of_noRes hr (keeps_resetSequence s).cfg, withEdgesDuring_of_cleared dropped (resetSequence_now s)]
  rfl

/-- Settles O57: the cycles of the sequence, and the processor after it with the edges during the step. -/
theorem resetStepSetsTheMaskAndLoadsTheVector : Obligations.ResetStepSetsTheMaskAndLoadsTheVector := by
  intro s u hb hr
  obtain ⟨lo, hi, r1, r2, r3, r4, r5, reads, hpc⟩ := makesReads_resetSequence u
  have after := afterStep_of_noRes hr (resetSequence u)
  have hcpu := afterStep_resetSequence_cpu hr
  refine ⟨_, lo, hi, r1, r2, r3, r4, r5, step_reset hb, congrArg (fun c => c.p.i) hcpu, congrArg Cpu.inReset hcpu,
    (congrArg Cpu.cfg hcpu).trans (reads.cfg.trans (sampled_cfg s)), congrArg Cpu.nmiPending hcpu,
    (congrArg Cpu.pc hcpu).trans hpc, ?_, fun hd => ?_⟩
  · rw [after]
    exact reads.trace.trans (by rw [sampled_trace, List.nil_append]; rfl)
  · have noDma : u.NoDma := sampled_noDma hd
    have memory (addr : Word) : s.IsMemory addr → u.IsMemory addr := (isMemory_iff_of_cfg (sampled_cfg s) addr).mpr
    refine ⟨fun m => ?_, fun m => ?_, fun addr => ?_⟩
    · exact (reads.memory noDma (0xFFFC, lo) (by simp) (memory _ m)).trans (sampled_peek s _)
    · exact (reads.memory noDma (0xFFFD, hi) (by simp) (memory _ m)).trans (sampled_peek s _)
    · rw [after]
      exact (reads.memoryKept noDma addr).trans (sampled_peek s addr)

end Sys2Proof.Machine
end
